-- ==== Sys2Proof/Word.lean ====
section
/-! DEFINITION. The machine's word types (spec/00_scope.md rule R5, spec/30_encoding.md rule R46).
Every value of this machine is unsigned (spec/00_scope.md section 5.1). -/

namespace Sys2Proof

/-- A memory byte or the contents of a general register: 8 bits (rules R10, R30). -/
abbrev Byte := BitVec 8

/-- An instruction word, a stack slot, `pc` or `I`: 16 bits (rules R12, R13, R14, R45). -/
abbrev Word := BitVec 16

/-- A nibble of an instruction word: 4 bits (rule R46). -/
abbrev Nibble := BitVec 4

/-- A register index, `x` or `y` of an instruction word: every value 0 to 15 is legal (rule R47). -/
abbrev Reg := BitVec 4

/-- The `nnn` operand: a 12-bit unsigned byte address (rule R47). -/
abbrev Addr := BitVec 12

/-- The index of the flag register `VF`, which is `V[15]` (rule R11). -/
abbrev flagReg : Reg := 15#4

end Sys2Proof
end

