-- ==== Sys2Proof/Syntax.lean ====
section
/-! DEFINITION. The 34 instructions of spec/30_encoding.md rule R50, one constructor per row of spec/opcode_table.json,
in the table's order. The operands are those of rule R47: `x` and `y` are register indices, `kk` an 8-bit immediate, `nnn` a
12-bit address, and the row count of `DRW` a plain number (below 16 in a well-formed instruction, Sys2Proof/WellFormed.lean).
The ignored bits of rule R51 are no operands. -/

namespace Sys2Proof

inductive Instr where
  /-- `CLS`, rule R111 -/
  | cls
  /-- `RET`, rule R75 -/
  | ret
  /-- `JP addr`, rule R76 -/
  | jpAddr (nnn : Addr)
  /-- `CALL addr`, rule R77 -/
  | callAddr (nnn : Addr)
  /-- `SE Vx,byte`, rule R78 -/
  | seVxByte (x : Reg) (kk : Byte)
  /-- `SNE Vx,byte`, rule R79 -/
  | sneVxByte (x : Reg) (kk : Byte)
  /-- `SE Vx,Vy`, rule R80 -/
  | seVxVy (x y : Reg)
  /-- `LD Vx,byte`, rule R86 -/
  | ldVxByte (x : Reg) (kk : Byte)
  /-- `ADD Vx,byte`, rule R87 -/
  | addVxByte (x : Reg) (kk : Byte)
  /-- `LD Vx,Vy`, rule R88 -/
  | ldVxVy (x y : Reg)
  /-- `OR Vx,Vy`, rule R89 -/
  | orVxVy (x y : Reg)
  /-- `AND Vx,Vy`, rule R90 -/
  | andVxVy (x y : Reg)
  /-- `XOR Vx,Vy`, rule R91 -/
  | xorVxVy (x y : Reg)
  /-- `ADD Vx,Vy`, rule R92 -/
  | addVxVy (x y : Reg)
  /-- `SUB Vx,Vy`, rule R93 -/
  | subVxVy (x y : Reg)
  /-- `SHR Vx`, rule R94 -/
  | shrVx (x : Reg)
  /-- `SUBN Vx,Vy`, rule R95 -/
  | subnVxVy (x y : Reg)
  /-- `SHL Vx`, rule R96 -/
  | shlVx (x : Reg)
  /-- `SNE Vx,Vy`, rule R81 -/
  | sneVxVy (x y : Reg)
  /-- `LD I,addr`, rule R101 -/
  | ldIAddr (nnn : Addr)
  /-- `JP V0,addr`, rule R82 -/
  | jpV0Addr (nnn : Addr)
  /-- `RND Vx,byte`, rule R97 -/
  | rndVxByte (x : Reg) (kk : Byte)
  /-- `DRW Vx,Vy,n`, rule R112 -/
  | drwVxVyN (x y : Reg) (n : Nat)
  /-- `SKP Vx`, rule R115 -/
  | skpVx (x : Reg)
  /-- `SKNP Vx`, rule R116 -/
  | sknpVx (x : Reg)
  /-- `LD Vx,DT`, rule R117 -/
  | ldVxDt (x : Reg)
  /-- `LD Vx,K`, rule R118 -/
  | ldVxK (x : Reg)
  /-- `LD DT,Vx`, rule R119 -/
  | ldDtVx (x : Reg)
  /-- `LD ST,Vx`, rule R120 -/
  | ldStVx (x : Reg)
  /-- `ADD I,Vx`, rule R102 -/
  | addIVx (x : Reg)
  /-- `LD F,Vx`, rule R103 -/
  | ldFVx (x : Reg)
  /-- `LD B,Vx`, rule R104 -/
  | ldBVx (x : Reg)
  /-- `LD [I],Vx`, rule R105 -/
  | ldMemVx (x : Reg)
  /-- `LD Vx,[I]`, rule R106 -/
  | ldVxMem (x : Reg)
deriving DecidableEq, Repr

end Sys2Proof
end

