-- ==== Sys2Proof/Decode.lean ====
section
/-! DEFINITION. The instruction decoder and encoder (spec/30_encoding.md): the views of a word (rule R46), the dispatch on
primary and secondary keys (rules R48, R50), the opcode map's match and mask columns (rule R50), the ignored bits (rule R51),
and the canonical word of each instruction. -/

namespace Sys2Proof

/-! ### The views of an instruction word (rule R46) -/

/-- Nibble 1, bits 15:12: the primary key (rules R46, R48). -/
def fieldN1 (w : Word) : Nibble := w.extractLsb' 12 4

/-- `x`, nibble 2, bits 11:8. -/
def fieldX (w : Word) : Reg := w.extractLsb' 8 4

/-- `y`, nibble 3, bits 7:4. -/
def fieldY (w : Word) : Reg := w.extractLsb' 4 4

/-- `n`, nibble 4, bits 3:0. -/
def fieldN (w : Word) : Nibble := w.extractLsb' 0 4

/-- `kk`, the low byte, bits 7:0. -/
def fieldKk (w : Word) : Byte := w.extractLsb' 0 8

/-- `nnn`, the low 12 bits. -/
def fieldNnn (w : Word) : Addr := w.extractLsb' 0 12

/-- The instruction word of two bytes: big-endian, the first byte is the high byte (rules R32, R45). -/
def wordOfBytes (hi lo : Byte) : Word := hi ++ lo

/-- The first (high) byte of a word, the one at the lower address. -/
def highByte (w : Word) : Byte := w.extractLsb' 8 8

/-- The second (low) byte of a word. -/
def lowByte (w : Word) : Byte := w.extractLsb' 0 8

/-! ### Decoding -/

/-- Primary key 0x0: the fourth nibble selects; nibbles 2 and 3 are ignored (rules R48, R51). -/
def decodeGroup0 (w : Word) : Option Instr :=
  match fieldN w with
  | 0x0#4 => some .cls
  | 0xE#4 => some .ret
  | _ => none

/-- Primary key 0x8: the fourth nibble selects (rule R48). -/
def decodeGroup8 (w : Word) : Option Instr :=
  match fieldN w with
  | 0x0#4 => some (.ldVxVy (fieldX w) (fieldY w))
  | 0x1#4 => some (.orVxVy (fieldX w) (fieldY w))
  | 0x2#4 => some (.andVxVy (fieldX w) (fieldY w))
  | 0x3#4 => some (.xorVxVy (fieldX w) (fieldY w))
  | 0x4#4 => some (.addVxVy (fieldX w) (fieldY w))
  | 0x5#4 => some (.subVxVy (fieldX w) (fieldY w))
  | 0x6#4 => some (.shrVx (fieldX w))
  | 0x7#4 => some (.subnVxVy (fieldX w) (fieldY w))
  | 0xE#4 => some (.shlVx (fieldX w))
  | _ => none

/-- Primary key 0xE: the fourth nibble selects; nibble 3 is ignored (rules R48, R51). -/
def decodeGroupE (w : Word) : Option Instr :=
  match fieldN w with
  | 0xE#4 => some (.skpVx (fieldX w))
  | 0x1#4 => some (.sknpVx (fieldX w))
  | _ => none

/-- Primary key 0xF: the low byte selects (rule R48). -/
def decodeGroupF (w : Word) : Option Instr :=
  match fieldKk w with
  | 0x07#8 => some (.ldVxDt (fieldX w))
  | 0x0A#8 => some (.ldVxK (fieldX w))
  | 0x15#8 => some (.ldDtVx (fieldX w))
  | 0x18#8 => some (.ldStVx (fieldX w))
  | 0x1E#8 => some (.addIVx (fieldX w))
  | 0x29#8 => some (.ldFVx (fieldX w))
  | 0x33#8 => some (.ldBVx (fieldX w))
  | 0x55#8 => some (.ldMemVx (fieldX w))
  | 0x65#8 => some (.ldVxMem (fieldX w))
  | _ => none

/-- Decode and dispatch (rules R48, R50, R56): the instruction a word selects, `none` for the words that select the
"unknown instruction" routine (rule R52). It reads nothing but the word. -/
def decodeWord (w : Word) : Option Instr :=
  match fieldN1 w with
  | 0x0#4 => decodeGroup0 w
  | 0x1#4 => some (.jpAddr (fieldNnn w))
  | 0x2#4 => some (.callAddr (fieldNnn w))
  | 0x3#4 => some (.seVxByte (fieldX w) (fieldKk w))
  | 0x4#4 => some (.sneVxByte (fieldX w) (fieldKk w))
  | 0x5#4 => some (.seVxVy (fieldX w) (fieldY w))
  | 0x6#4 => some (.ldVxByte (fieldX w) (fieldKk w))
  | 0x7#4 => some (.addVxByte (fieldX w) (fieldKk w))
  | 0x8#4 => decodeGroup8 w
  | 0x9#4 => some (.sneVxVy (fieldX w) (fieldY w))
  | 0xA#4 => some (.ldIAddr (fieldNnn w))
  | 0xB#4 => some (.jpV0Addr (fieldNnn w))
  | 0xC#4 => some (.rndVxByte (fieldX w) (fieldKk w))
  | 0xD#4 => some (.drwVxVyN (fieldX w) (fieldY w) (fieldN w).toNat)
  | 0xE#4 => decodeGroupE w
  | 0xF#4 => decodeGroupF w
  | _ => none

/-- Why a sequence of bytes holds no instruction. -/
inductive Reject where
  /-- fewer than the two bytes every instruction has (rule R45) -/
  | truncated
  /-- the word selects the "unknown instruction" routine (rule R52) -/
  | unknownInstruction (w : Word)
deriving DecidableEq, Repr

/-- The decoder on bytes: the instruction of the first two and the bytes after them, or why there is none. -/
def decodeBytes (bytes : List Byte) : Except Reject (Instr × List Byte) :=
  match bytes with
  | hi :: lo :: rest =>
    match decodeWord (wordOfBytes hi lo) with
    | some i => .ok (i, rest)
    | none => .error (.unknownInstruction (wordOfBytes hi lo))
  | _ => .error .truncated

/-- The two bytes of an instruction word as memory holds them, the high byte first (rule R45). -/
def bytesOfWord (w : Word) : List Byte := [highByte w, lowByte w]

/-- What the decoder reads from an instruction whose bits are `w`, numbered as spec/opcode_table.json numbers them: the
instruction is one 16-bit word, bit 0 its least significant bit, and the bits above `nbits` are zero. -/
def decodeTableWord (nbits w : Nat) : Option Instr :=
  match decodeBytes (bytesOfWord (BitVec.ofNat 16 (w % 2 ^ nbits))) with
  | .ok (i, _) => some i
  | .error _ => none

/-! ### Encoding: the formats of rule R49 and the canonical words of rule R50 -/

/-- Format `A`: primary key and address. -/
def wordA (k : Nibble) (nnn : Addr) : Word := k ++ nnn

/-- Formats `XK` and `XS8`: primary key, register, low byte (operand or secondary key). -/
def wordXK (k : Nibble) (x : Reg) (kk : Byte) : Word := k ++ x ++ kk

/-- Formats `XYZ`, `XYS`, `XYN` and `XS4`: four nibbles. -/
def wordXYN (k : Nibble) (x y : Reg) (n : Nibble) : Word := k ++ x ++ y ++ n

/-- The canonical word of an instruction (rules R50, R51). For `DRW` the row count goes to its 4-bit field, whole when the
instruction is well formed. -/
def encode : Instr → Word
  | .cls => 0x00E0#16
  | .ret => 0x00EE#16
  | .jpAddr nnn => wordA 0x1#4 nnn
  | .callAddr nnn => wordA 0x2#4 nnn
  | .seVxByte x kk => wordXK 0x3#4 x kk
  | .sneVxByte x kk => wordXK 0x4#4 x kk
  | .seVxVy x y => wordXYN 0x5#4 x y 0x0#4
  | .ldVxByte x kk => wordXK 0x6#4 x kk
  | .addVxByte x kk => wordXK 0x7#4 x kk
  | .ldVxVy x y => wordXYN 0x8#4 x y 0x0#4
  | .orVxVy x y => wordXYN 0x8#4 x y 0x1#4
  | .andVxVy x y => wordXYN 0x8#4 x y 0x2#4
  | .xorVxVy x y => wordXYN 0x8#4 x y 0x3#4
  | .addVxVy x y => wordXYN 0x8#4 x y 0x4#4
  | .subVxVy x y => wordXYN 0x8#4 x y 0x5#4
  | .shrVx x => wordXYN 0x8#4 x 0x0#4 0x6#4
  | .subnVxVy x y => wordXYN 0x8#4 x y 0x7#4
  | .shlVx x => wordXYN 0x8#4 x 0x0#4 0xE#4
  | .sneVxVy x y => wordXYN 0x9#4 x y 0x0#4
  | .ldIAddr nnn => wordA 0xA#4 nnn
  | .jpV0Addr nnn => wordA 0xB#4 nnn
  | .rndVxByte x kk => wordXK 0xC#4 x kk
  | .drwVxVyN x y n => wordXYN 0xD#4 x y (BitVec.ofNat 4 n)
  | .skpVx x => wordXK 0xE#4 x 0x9E#8
  | .sknpVx x => wordXK 0xE#4 x 0xA1#8
  | .ldVxDt x => wordXK 0xF#4 x 0x07#8
  | .ldVxK x => wordXK 0xF#4 x 0x0A#8
  | .ldDtVx x => wordXK 0xF#4 x 0x15#8
  | .ldStVx x => wordXK 0xF#4 x 0x18#8
  | .addIVx x => wordXK 0xF#4 x 0x1E#8
  | .ldFVx x => wordXK 0xF#4 x 0x29#8
  | .ldBVx x => wordXK 0xF#4 x 0x33#8
  | .ldMemVx x => wordXK 0xF#4 x 0x55#8
  | .ldVxMem x => wordXK 0xF#4 x 0x65#8

/-- The bytes of an instruction as memory holds them. -/
def encodeBytes (i : Instr) : List Byte := bytesOfWord (encode i)

/-! ### The match and mask columns of the opcode map (rule R50), and the ignored bits (rule R51) -/

/-- The mask of an instruction's row: its selecting bits (rules R48, R50). -/
def opcodeMask : Instr → Word
  | .cls => 0xF00F#16
  | .ret => 0xF00F#16
  | .jpAddr _ => 0xF000#16
  | .callAddr _ => 0xF000#16
  | .seVxByte _ _ => 0xF000#16
  | .sneVxByte _ _ => 0xF000#16
  | .seVxVy _ _ => 0xF000#16
  | .ldVxByte _ _ => 0xF000#16
  | .addVxByte _ _ => 0xF000#16
  | .ldVxVy _ _ => 0xF00F#16
  | .orVxVy _ _ => 0xF00F#16
  | .andVxVy _ _ => 0xF00F#16
  | .xorVxVy _ _ => 0xF00F#16
  | .addVxVy _ _ => 0xF00F#16
  | .subVxVy _ _ => 0xF00F#16
  | .shrVx _ => 0xF00F#16
  | .subnVxVy _ _ => 0xF00F#16
  | .shlVx _ => 0xF00F#16
  | .sneVxVy _ _ => 0xF000#16
  | .ldIAddr _ => 0xF000#16
  | .jpV0Addr _ => 0xF000#16
  | .rndVxByte _ _ => 0xF000#16
  | .drwVxVyN _ _ _ => 0xF000#16
  | .skpVx _ => 0xF00F#16
  | .sknpVx _ => 0xF00F#16
  | .ldVxDt _ => 0xF0FF#16
  | .ldVxK _ => 0xF0FF#16
  | .ldDtVx _ => 0xF0FF#16
  | .ldStVx _ => 0xF0FF#16
  | .addIVx _ => 0xF0FF#16
  | .ldFVx _ => 0xF0FF#16
  | .ldBVx _ => 0xF0FF#16
  | .ldMemVx _ => 0xF0FF#16
  | .ldVxMem _ => 0xF0FF#16

/-- The match value of an instruction's row. -/
def opcodeMatch : Instr → Word
  | .cls => 0x0000#16
  | .ret => 0x000E#16
  | .jpAddr _ => 0x1000#16
  | .callAddr _ => 0x2000#16
  | .seVxByte _ _ => 0x3000#16
  | .sneVxByte _ _ => 0x4000#16
  | .seVxVy _ _ => 0x5000#16
  | .ldVxByte _ _ => 0x6000#16
  | .addVxByte _ _ => 0x7000#16
  | .ldVxVy _ _ => 0x8000#16
  | .orVxVy _ _ => 0x8001#16
  | .andVxVy _ _ => 0x8002#16
  | .xorVxVy _ _ => 0x8003#16
  | .addVxVy _ _ => 0x8004#16
  | .subVxVy _ _ => 0x8005#16
  | .shrVx _ => 0x8006#16
  | .subnVxVy _ _ => 0x8007#16
  | .shlVx _ => 0x800E#16
  | .sneVxVy _ _ => 0x9000#16
  | .ldIAddr _ => 0xA000#16
  | .jpV0Addr _ => 0xB000#16
  | .rndVxByte _ _ => 0xC000#16
  | .drwVxVyN _ _ _ => 0xD000#16
  | .skpVx _ => 0xE00E#16
  | .sknpVx _ => 0xE001#16
  | .ldVxDt _ => 0xF007#16
  | .ldVxK _ => 0xF00A#16
  | .ldDtVx _ => 0xF015#16
  | .ldStVx _ => 0xF018#16
  | .addIVx _ => 0xF01E#16
  | .ldFVx _ => 0xF029#16
  | .ldBVx _ => 0xF033#16
  | .ldMemVx _ => 0xF055#16
  | .ldVxMem _ => 0xF065#16

/-- The bits of an instruction's word that are neither selecting bits nor operands (rule R51). -/
def ignoredBits : Instr → Word
  | .cls => 0x0FF0#16
  | .ret => 0x0FF0#16
  | .jpAddr _ => 0x0000#16
  | .callAddr _ => 0x0000#16
  | .seVxByte _ _ => 0x0000#16
  | .sneVxByte _ _ => 0x0000#16
  | .seVxVy _ _ => 0x000F#16
  | .ldVxByte _ _ => 0x0000#16
  | .addVxByte _ _ => 0x0000#16
  | .ldVxVy _ _ => 0x0000#16
  | .orVxVy _ _ => 0x0000#16
  | .andVxVy _ _ => 0x0000#16
  | .xorVxVy _ _ => 0x0000#16
  | .addVxVy _ _ => 0x0000#16
  | .subVxVy _ _ => 0x0000#16
  | .shrVx _ => 0x00F0#16
  | .subnVxVy _ _ => 0x0000#16
  | .shlVx _ => 0x00F0#16
  | .sneVxVy _ _ => 0x000F#16
  | .ldIAddr _ => 0x0000#16
  | .jpV0Addr _ => 0x0000#16
  | .rndVxByte _ _ => 0x0000#16
  | .drwVxVyN _ _ _ => 0x0000#16
  | .skpVx _ => 0x00F0#16
  | .sknpVx _ => 0x00F0#16
  | .ldVxDt _ => 0x0000#16
  | .ldVxK _ => 0x0000#16
  | .ldDtVx _ => 0x0000#16
  | .ldStVx _ => 0x0000#16
  | .addIVx _ => 0x0000#16
  | .ldFVx _ => 0x0000#16
  | .ldBVx _ => 0x0000#16
  | .ldMemVx _ => 0x0000#16
  | .ldVxMem _ => 0x0000#16

end Sys2Proof
end

