-- ==== Sys2Proof/Config.lean ====
section
/-! DEFINITION. What is fixed for the machine (spec/00_scope.md rules R5, R6) and the two free values of the model:
what the host puts on the input ports when the state's queue of inputs holds nothing more.
The values of the parameters of rule R6 stand in Machine/Parameters.lean. -/

namespace Sys2Proof

/-- `MEM_SIZE` of rule R5: the legal addresses are 0 to 4095. -/
abbrev Config.memSize : Nat := 4096

/-- `PROG_BASE` of rule R5: where the program image is loaded. -/
abbrev Config.progBase : Nat := 0x200

/-- `PROG_MAX` of rule R5: the longest program image that fits. -/
abbrev Config.progMax : Nat := 3584

/-- `GLYPH_STRIDE` of rule R5: bytes of one glyph. -/
abbrev Config.glyphStride : Nat := 5

/-- `STACK_SLOTS` of rule R5 less one: slot 0 is never used, so 15 return addresses fit (rule R14). -/
abbrev Config.stackFull : BitVec 4 := 15#4

/-- The two legal values of the parameter `DRAW_WRAP` (spec/44_display.md rule R113). -/
inductive DrawWrap where
  /-- the whole linear pixel index is reduced modulo 2048 -/
  | linear
  /-- each axis is reduced on its own -/
  | perAxis
deriving DecidableEq, Repr

/-- FREE VALUE (log entry 1; safe). The key snapshot the host supplies on `keys_in` for the `n`-th input the machine
consumes, when the state's queue `inputs` is empty. No body: nothing is known of it, so what is proved holds for every
sequence of snapshots (spec/70_reset_and_hazards.md rule R159). -/
opaque Config.hostKeys : Nat → BitVec 16

/-- FREE VALUE (log entry 1; safe). The random byte the host supplies on `rnd_in` for the `n`-th input the machine
consumes, when the state's queue `inputs` is empty (spec/42_load_and_alu.md rule R97: the core holds no generator). -/
opaque Config.hostRandom : Nat → Byte

end Sys2Proof
end

