-- ==== Sys2Proof/Machine/Parameters.lean ====
section
/-! DEFINITION. The values this hardware gives the parameters of spec/00_scope.md rule R6. They stand under Machine/ so
that a later repair can mend them. `TIMER_TICK` has the one value `per_cycle` (spec/40_cycle_driver.md rule R67), which is how
Machine/Cycle.lean ticks; `N_CYCLES` is the number of steps the host runs, an argument of Host.Core.run. -/

namespace Sys2Proof

/-- `JP_V0_PREOFFSET` = 0 (spec/41_control_flow.md rule R82, decision D4; log entry 8): the amount subtracted from the
target of `JP V0,addr` before the uniform +2. The other legal value is 2. -/
def Config.jpV0Preoffset : Word := 0#16

/-- `DRAW_WRAP` = `linear` (spec/44_display.md rule R113, decision D16; log entry 9). -/
def Config.drawWrap : DrawWrap := .linear

/-- Glyphs 0 to 7 of `GLYPHS`, five rows each, top row first (spec/20_memory.md rule R36; log entry 10). -/
def Config.glyphsLow : List Byte :=
  [0xF0, 0x90, 0x90, 0x90, 0xF0] ++ [0x20, 0x60, 0x20, 0x20, 0x70] ++
  [0xF0, 0x10, 0xF0, 0x80, 0xF0] ++ [0xF0, 0x10, 0xF0, 0x10, 0xF0] ++
  [0x90, 0x90, 0xF0, 0x10, 0x10] ++ [0xF0, 0x80, 0xF0, 0x10, 0xF0] ++
  [0xF0, 0x80, 0xF0, 0x90, 0xF0] ++ [0xF0, 0x10, 0x20, 0x40, 0x40]

/-- Glyphs 8 to F of `GLYPHS` (spec/20_memory.md rule R36; log entry 10). -/
def Config.glyphsHigh : List Byte :=
  [0xF0, 0x90, 0xF0, 0x90, 0xF0] ++ [0xF0, 0x90, 0xF0, 0x10, 0xF0] ++
  [0xF0, 0x90, 0xF0, 0x90, 0x90] ++ [0xE0, 0x90, 0xE0, 0x90, 0xE0] ++
  [0xF0, 0x80, 0x80, 0x80, 0xF0] ++ [0xE0, 0x90, 0xE0, 0x90, 0xE0] ++
  [0xF0, 0x80, 0xF0, 0x80, 0xF0] ++ [0xF0, 0x80, 0xF0, 0x80, 0x80]

/-- `GLYPHS`: the 80 bytes at 0x000 to 0x04F after reset (spec/20_memory.md rule R36, decision D18; log entry 10). -/
def Config.glyphs : List Byte := Config.glyphsLow ++ Config.glyphsHigh

end Sys2Proof
end

