-- ==== Sys2Proof/Machine/State.lean ====
section
/-! DEFINITION. The state of the machine as plain data (spec/10_state.md), the reasons a fault is taken
(spec/60_exceptions.md rule R126), the refusals, and the state after reset (spec/10_state.md rule R25). -/

namespace Sys2Proof.Machine

/-- `mem` (spec/20_memory.md rule R30) in canonical form: addresses strictly rising, no entry equal to what an unlisted
address reads as (Machine/Ops.lean, `Memory.unlisted`). -/
abbrev Memory := List Host.Cell

/-- `display` (spec/10_state.md rule R16): 32 rows of 64 one-bit cells, row `y` counted from the top; column `x`, counted
from the left, is bit `x` of its row. -/
abbrev Display := Vector (BitVec 64) 32

/-- A pixel index 0 to 2047: pixel (x, y) has the index `y * 64 + x` (rule R16). -/
abbrev Pixel := Fin 2048

/-- What the host puts on the input ports for one cycle (spec/40_cycle_driver.md rule R60). -/
structure PortInput where
  /-- `keys_in`: bit `k` is 1 when logical key `k` is pressed -/
  keysIn : BitVec 16
  /-- `rnd_in`: the random byte, looked at only by `RND` -/
  rndIn : Byte
deriving DecidableEq, Repr

/-- The state (spec/10_state.md rules R10 to R22, spec/20_memory.md rule R30), the two output ports of
spec/40_cycle_driver.md rule R60, and the model's own queue of inputs (log entry 1). -/
structure State where
  /-- `V[0]` to `V[15]` (R10); `VF` is `V[15]` (R11) -/
  v : Vector Byte 16
  /-- the address register `I` (R12) -/
  regI : Word
  /-- the program counter (R13) -/
  pc : Word
  /-- the return stack `stack[0]` to `stack[15]` (R14) -/
  stack : Vector Word 16
  /-- the stack pointer `sp` (R15) -/
  sp : BitVec 4
  /-- the display grid (R16) -/
  display : Display
  /-- `delay_timer` (R17) -/
  dt : Byte
  /-- `sound_timer` (R18) -/
  st : Byte
  /-- the keypad latch, bit `k` for logical key `k` (R19) -/
  keypad : BitVec 16
  /-- `keypad_waiting`: true is `WaitingForKey`, false is `Running` (R20) -/
  waiting : Bool
  /-- `keypad_waiting_register` (R20) -/
  waitReg : Reg
  /-- `redraw_flag` (R21) -/
  redrawFlag : Bool
  /-- `fault_code` of the fault latch, 0 when there is no fault (R22) -/
  faultCode : BitVec 3
  /-- `fault_pc` of the fault latch (R22) -/
  faultPc : Word
  /-- `fault_info` of the fault latch (R22) -/
  faultInfo : Word
  /-- the 4096-byte memory (R30) -/
  mem : Memory
  /-- the output port `redraw_needed` as the last cycle left it (R60, R69) -/
  redrawNeeded : Bool
  /-- the output port `tone_active` as the last cycle left it (R60, R62) -/
  toneActive : Bool
  /-- the model's own: the inputs the host has lined up, the next cycle's first; when it is empty the free values
  `Config.hostKeys` and `Config.hostRandom` stand in (log entry 1) -/
  inputs : List PortInput
  /-- the model's own: how many inputs have been consumed; it indexes the free values (log entry 1) -/
  inputCount : Nat
deriving DecidableEq, Repr

/-- The faults of spec/60_exceptions.md rule R126. The spec describes what taking one does (rule R127), so a cycle that
raises one answers a NEXT state with the fault latch written (Machine/Ops.lean, `State.takeFault`); no step of this model
answers `Host.Outcome.fault` (log entry 6). Safe: nothing of the state but the latch changes, as the spec says. -/
inductive Fault where
  /-- code 1, raised by dispatch when the fetched word matches no row of the opcode map (R128). Safe. -/
  | unknownInstruction (word : Word)
  /-- code 2, raised by `RET` when `sp` is 0 (R130). Safe (decision D6). -/
  | stackUnderflow
  /-- code 3, raised by `CALL` when `sp` is 15 (R129). Safe (decision D6). -/
  | stackOverflow
  /-- code 4, raised by fetch, `DRW`, `LD B,Vx`, `LD [I],Vx` and `LD Vx,[I]` on an address above 4095; `addr` is the lowest
  offending address (R131). Safe (decision D5). -/
  | memoryOutOfRange (addr : Nat)
  /-- code 5, raised by `SKP` and `SKNP` when `V[x]` is above 15 (R132). Safe (decision D8). -/
  | keyIndexOutOfRange (key : Byte)
  /-- code 6, raised by reset when the program image does not fit; `len` is its length (R147). Safe (decision D14). -/
  | programTooLong (len : Nat)
deriving DecidableEq, Repr

/-- The refusals: no meaning of this model answers one. -/
inductive Refusal where
  /-- an instruction without a meaning, rejected by name in exec's arm; there is none. Safe. -/
  | notModelled (mnemonic : String)
deriving DecidableEq, Repr

/-- The state after reset (spec/10_state.md rule R25) with an empty program image, which the core accepts
(spec/70_reset_and_hazards.md rule R147): `pc` is 0x0200, `sp` is 0, memory holds its reset contents, everything else is
zero (decision D13; log entries 2 to 5). Reset with a program image is `State.resetWith` in Machine/Reset.lean. -/
def State.reset : State where
  v := Vector.replicate 16 0#8
  regI := 0#16
  pc := 0x0200#16
  stack := Vector.replicate 16 0#16
  sp := 0#4
  display := Vector.replicate 32 0#64
  dt := 0#8
  st := 0#8
  keypad := 0#16
  waiting := false
  waitReg := 0#4
  redrawFlag := false
  faultCode := 0#3
  faultPc := 0#16
  faultInfo := 0#16
  mem := []
  redrawNeeded := false
  toneActive := false
  inputs := []
  inputCount := 0

end Sys2Proof.Machine
end

