-- ==== Sys2Proof/Machine/Ops.lean ====
section
/-! DEFINITION. The named operations over memory, registers, the return stack, the display, the keypad, the input ports
and the fault latch. Every meaning and every phase of the cycle is written over these. -/

namespace Sys2Proof.Machine

/-- What a routine or a step answers. -/
abbrev Result := Host.Outcome State Fault Refusal

/-! ### Memory (spec/20_memory.md) -/

/-- What an address that memory does not list reads as: its content at reset with an empty image, a glyph byte below 0x050
and zero above (rules R25, R36; log entry 17). -/
def Memory.unlisted (a : Nat) : Byte := Config.glyphs.getD a 0#8

/-- The byte at an address. -/
def Memory.read : Memory → Nat → Byte
  | [], a => Memory.unlisted a
  | (a', b) :: rest, a => if a' = a then b else Memory.read rest a

/-- Write one byte, keeping the canonical form: a byte equal to what the unlisted address reads as is not listed. -/
def Memory.write : Memory → Nat → Byte → Memory
  | [], a, b => if b = Memory.unlisted a then [] else [(a, b)]
  | (a', b') :: rest, a, b =>
    if a < a' then
      if b = Memory.unlisted a then (a', b') :: rest else (a, b) :: (a', b') :: rest
    else if a = a' then
      if b = Memory.unlisted a then rest else (a, b) :: rest
    else (a', b') :: Memory.write rest a b

/-- The canonical form from an address on: rising addresses of the 4096-byte space, none listed with its unlisted value. -/
def Memory.wfFrom : Nat → Memory → Bool
  | _, [] => true
  | low, (a, b) :: rest =>
    decide (low ≤ a) && decide (a < Config.memSize) && decide (b ≠ Memory.unlisted a) && Memory.wfFrom (a + 1) rest

/-- The canonical form of memory: equal memories are equal lists. -/
def Memory.wf (m : Memory) : Bool := Memory.wfFrom 0 m

/-- `count` bytes from an address on, in ascending order (rule R32). -/
def Memory.readBytes (m : Memory) : Nat → Nat → List Byte
  | _, 0 => []
  | a, count + 1 => m.read a :: Memory.readBytes m (a + 1) count

/-- Write a sequence of bytes at ascending addresses (rule R32). -/
def Memory.writeBytes : Memory → Nat → List Byte → Memory
  | m, _, [] => m
  | m, a, b :: bs => Memory.writeBytes (m.write a b) (a + 1) bs

/-- The range check of an access to `count` bytes at `base`: the fault of the lowest address above 4095, if there is one.
Addresses are unbounded numbers and do not wrap (rules R7, R34, R100, R131; log entry 7). -/
def accessFault (base count : Nat) : Option Fault :=
  if 0 < count ∧ Config.memSize < base + count then some (.memoryOutOfRange (max base Config.memSize)) else none

/-! ### Updates of single parts of the state -/

/-- The byte `mem[a]`. -/
def State.readByte (s : State) (a : Nat) : Byte := s.mem.read a

def State.setMem (m : Memory) (s : State) : State := { s with mem := m }

/-- All sixteen general registers at once. -/
def State.setRegs (v : Vector Byte 16) (s : State) : State := { s with v := v }

def State.setI (w : Word) (s : State) : State := { s with regI := w }

def State.setPc (w : Word) (s : State) : State := { s with pc := w }

def State.setDt (b : Byte) (s : State) : State := { s with dt := b }

def State.setSt (b : Byte) (s : State) : State := { s with st := b }

def State.setSp (k : BitVec 4) (s : State) : State := { s with sp := k }

def State.setStack (v : Vector Word 16) (s : State) : State := { s with stack := v }

def State.setKeypad (keys : BitVec 16) (s : State) : State := { s with keypad := keys }

/-- Write the display and set `redraw_flag` (spec/44_display.md rule R110). -/
def State.setDisplay (d : Display) (s : State) : State := { s with display := d, redrawFlag := true }

/-- Enter `WaitingForKey(x)` (spec/45_keypad_and_timers.md rule R118). -/
def State.setWait (x : Reg) (s : State) : State := { s with waiting := true, waitReg := x }

/-- Back to `Running` (spec/40_cycle_driver.md rule R63). -/
def State.clearWait (s : State) : State := { s with waiting := false }

/-- The output ports. -/
def State.setOutputs (redraw tone : Bool) (s : State) : State := { s with redrawNeeded := redraw, toneActive := tone }

def State.clearRedraw (s : State) : State := { s with redrawFlag := false }

/-! ### General registers (spec/10_state.md rules R10, R11) -/

/-- `V[x]`. -/
def State.getV (s : State) (x : Reg) : Byte := s.v[x.toNat]'(x.isLt)

/-- `V[x] <- b`. -/
def State.setV (x : Reg) (b : Byte) (s : State) : State := s.setRegs (s.v.set x.toNat b x.isLt)

/-- `V[k]`, `V[k+1]`, ... : `count` registers in ascending order. -/
def State.regBytes (s : State) : Nat → Nat → List Byte
  | _, 0 => []
  | k, count + 1 => s.getV (BitVec.ofNat 4 k) :: State.regBytes s (k + 1) count

/-- Write a sequence of bytes to `V[k]`, `V[k+1]`, ... -/
def State.loadRegs : Nat → List Byte → State → State
  | _, [], s => s
  | k, b :: bs, s => State.loadRegs (k + 1) bs (s.setV (BitVec.ofNat 4 k) b)

/-! ### Taking a fault (spec/60_exceptions.md) -/

/-- A number as a 16-bit `fault_info`, saturated to 0xFFFF (rule R126). -/
def saturate16 (n : Nat) : Word := BitVec.ofNat 16 (min n 0xFFFF)

/-- `fault_code` of a fault (rule R126). -/
def faultCodeOf : Fault → BitVec 3
  | .unknownInstruction _ => 1#3
  | .stackUnderflow => 2#3
  | .stackOverflow => 3#3
  | .memoryOutOfRange _ => 4#3
  | .keyIndexOutOfRange _ => 5#3
  | .programTooLong _ => 6#3

/-- `fault_info` of a fault (rule R126). -/
def faultInfoOf : Fault → Word
  | .unknownInstruction w => w
  | .stackUnderflow => 0#16
  | .stackOverflow => 0#16
  | .memoryOutOfRange a => saturate16 a
  | .keyIndexOutOfRange k => k.setWidth 16
  | .programTooLong n => saturate16 n

/-- Fault entry (rule R127): the latch records the code, the `pc` of the faulting cycle and the info; the outputs are 0;
nothing else changes. There is no handler, no vector and no return (rules R125, R135). -/
def State.takeFault (f : Fault) (s : State) : State :=
  { s with faultCode := faultCodeOf f, faultPc := s.pc, faultInfo := faultInfoOf f,
           redrawNeeded := false, toneActive := false }

/-- `raise <Fault>(info)` (rule R7): the routine ends with the fault taken. -/
def raise (f : Fault) (s : State) : Result := .next (s.takeFault f)

/-! ### Range-checked access: all addresses are checked before anything is written (rules R34, R100) -/

/-- `count` bytes at `base`, or the fault of the access. -/
def State.loadBytes (s : State) (base count : Nat) : Except Fault (List Byte) :=
  match accessFault base count with
  | some f => .error f
  | none => .ok (s.mem.readBytes base count)

/-- Store a sequence of bytes at `base`, or the fault of the access. -/
def State.storeBytes (base : Nat) (bytes : List Byte) (s : State) : Except Fault State :=
  match accessFault base bytes.length with
  | some f => .error f
  | none => .ok (s.setMem (s.mem.writeBytes base bytes))

/-! ### The return stack (spec/10_state.md rules R14, R15) -/

/-- `stack[k]`. -/
def State.slot (s : State) (k : BitVec 4) : Word := s.stack[k.toNat]'(k.isLt)

/-- Push a return address, incrementing `sp` first; a full stack is `StackOverflow` (spec/41_control_flow.md rule R77). -/
def State.push (a : Word) (s : State) : Except Fault State :=
  if s.sp = Config.stackFull then .error .stackOverflow
  else .ok ((s.setSp (s.sp + 1#4)).setStack (s.stack.set (s.sp + 1#4).toNat a (s.sp + 1#4).isLt))

/-- Pop a return address, decrementing `sp` after; an empty stack is `StackUnderflow`; the slot keeps its value (spec/41_control_flow.md
rule R75). -/
def State.pop (s : State) : Except Fault (Word × State) :=
  if s.sp = 0#4 then .error .stackUnderflow
  else .ok (s.slot s.sp, s.setSp (s.sp - 1#4))

/-! ### The display (spec/44_display.md rules R110, R112) -/

/-- The pixel with a linear index: column `index mod 64` of row `index div 64`. -/
def Display.pixel (d : Display) (p : Pixel) : Bool :=
  (d[p.val / 64]'(by omega)).getLsbD (p.val % 64)

/-- XOR 1 into one pixel. -/
def Display.flip (d : Display) (p : Pixel) : Display :=
  d.set (p.val / 64) (d[p.val / 64]'(by omega) ^^^ BitVec.twoPow 64 (p.val % 64)) (by omega)

/-- All 2048 pixels off. -/
def Display.clear : Display := Vector.replicate 32 0#64

/-- `display[p]`. -/
def State.pixel (s : State) (p : Pixel) : Bool := Display.pixel s.display p

/-- The display read port: `disp_q = display[disp_addr]`, read by the host between cycles (spec/40_cycle_driver.md rule R60). -/
def State.dispQ (s : State) (dispAddr : BitVec 11) : Bool := s.pixel dispAddr.toFin

/-- One sprite bit that is 1: note a collision if the pixel was on, then XOR it (rule R112). -/
def plot (p : Pixel) (d : Display × Bool) : Display × Bool :=
  (Display.flip d.1 p, d.2 || Display.pixel d.1 p)

/-! ### The input ports (spec/40_cycle_driver.md rule R60; log entry 1) -/

/-- `keys_in` during the cycle that starts in this state. -/
def State.keysIn (s : State) : BitVec 16 :=
  match s.inputs with
  | [] => Config.hostKeys s.inputCount
  | port :: _ => port.keysIn

/-- `rnd_in` during the cycle that starts in this state. -/
def State.rndIn (s : State) : Byte :=
  match s.inputs with
  | [] => Config.hostRandom s.inputCount
  | port :: _ => port.rndIn

/-- The cycle's input is consumed: the host supplies a fresh one to the next (spec/70_reset_and_hazards.md rule R158). -/
def State.consumeInput (s : State) : State := { s with inputs := s.inputs.tail, inputCount := s.inputCount + 1 }

/-! ### The keypad (spec/10_state.md rule R19) -/

/-- `keypad[k]`. -/
def State.keyDown (s : State) (k : Nat) : Bool := s.keypad.getLsbD k

/-- The lowest-numbered pressed key of a snapshot (spec/40_cycle_driver.md rule R63). -/
def lowestKey (keys : BitVec 16) : Option Nat := (List.range 16).find? fun k => keys.getLsbD k

end Sys2Proof.Machine
end

