-- ==== Sys2Proof/Machine/Operands.lean ====
section
/-! DEFINITION. The operand forms (spec/30_encoding.md rule R47, spec/43_index_and_memory.md rule R100,
spec/44_display.md rules R112, R113): zero-extended addresses, the pre-offset target, the base `I`, BCD digits and pixel
indices. -/

namespace Sys2Proof.Machine

/-- `zext_16(nnn)` (rule R47). -/
def extendAddr (nnn : Addr) : Word := nnn.setWidth 16

/-- `zext_16` of a byte. -/
def extendByte (b : Byte) : Word := b.setWidth 16

/-- The pre-offset target of `JP addr` and `CALL addr`: `addr - 2` modulo 65536 (spec/40_cycle_driver.md rule R68). -/
def preOffset (nnn : Addr) : Word := extendAddr nnn - 2#16

/-- The target of `JP V0,addr` less a pre-offset (spec/41_control_flow.md rule R82). -/
def jumpV0Target (nnn : Addr) (v0 : Byte) (offset : Word) : Word := extendAddr nnn + extendByte v0 - offset

/-- The base of the effective addresses: `I` at full width, an unbounded number (rule R100). -/
def State.base (s : State) : Nat := s.regI.toNat

/-- A taken skip passes over one instruction word: `pc + 2`, and the cycle driver adds 2 more (spec/41_control_flow.md
rule R78). -/
def State.skipIf (condition : Bool) (s : State) : State := s.setPc (if condition then s.pc + 2#16 else s.pc)

/-- The address of a glyph: five bytes each from address 0 (spec/43_index_and_memory.md rule R103). -/
def glyphAddress (b : Byte) : Word := BitVec.ofNat 16 (b.toNat * Config.glyphStride)

/-- The hundreds, tens and units digits (spec/43_index_and_memory.md rule R104). -/
def bcdDigits (b : Byte) : List Byte :=
  [BitVec.ofNat 8 (b.toNat / 100), BitVec.ofNat 8 (b.toNat / 10 % 10), BitVec.ofNat 8 (b.toNat % 10)]

/-- The pixel a sprite bit falls on, from the latched coordinates and the bit's row and column in the sprite, in unbounded
numbers (rules R112, R113). -/
def pixelIndex (wrap : DrawWrap) (vx vy row col : Nat) : Pixel :=
  match wrap with
  | .linear => Fin.ofNat 2048 ((vy + row) * 64 + (vx + col))
  | .perAxis => Fin.ofNat 2048 ((vy + row) % 32 * 64 + (vx + col) % 64)

/-- Bit `col` of a sprite row, column 0 being the most significant bit (rule R110). -/
def spriteBit (row : Byte) (col : Nat) : Bool := row.getLsbD (7 - col)

/-- The columns of one sprite row from a list of them, left to right. -/
def drawColumns (wrap : DrawWrap) (vx vy row : Nat) (b : Byte) : List Nat → Display × Bool → Display × Bool
  | [], d => d
  | col :: cols, d =>
    drawColumns wrap vx vy row b cols (if spriteBit b col then plot (pixelIndex wrap vx vy row col) d else d)

/-- The rows of a sprite from row `row` on, top row first (rule R112). -/
def drawRows (wrap : DrawWrap) (vx vy : Nat) : Nat → List Byte → Display × Bool → Display × Bool
  | _, [], d => d
  | row, b :: bs, d => drawRows wrap vx vy (row + 1) bs (drawColumns wrap vx vy row b (List.range 8) d)

/-- A whole sprite drawn on a display: the new display, and whether a pixel that was on was turned off (rule R112). -/
def drawSprite (wrap : DrawWrap) (vx vy : Nat) (rows : List Byte) (d : Display) : Display × Bool :=
  drawRows wrap vx vy 0 rows (d, false)

end Sys2Proof.Machine
end

