-- ==== Sys2Proof/Machine/ControlFlow.lean ====
section
/-! DEFINITION. The execute phase of the control-transfer instructions (spec/41_control_flow.md). In it `pc` is the
address of the instruction itself; the cycle driver adds 2 afterwards (spec/40_cycle_driver.md rules R66, R68). -/

namespace Sys2Proof.Machine

/-- `RET`, rule R75. -/
def execRet (s : State) : Result :=
  match s.pop with
  | .error f => raise f s
  | .ok (a, t) => .next (t.setPc a)

/-- `JP addr`, rule R76. -/
def execJpAddr (nnn : Addr) (s : State) : Result := .next (s.setPc (preOffset nnn))

/-- `CALL addr`, rule R77. -/
def execCallAddr (nnn : Addr) (s : State) : Result :=
  match s.push s.pc with
  | .error f => raise f s
  | .ok t => .next (t.setPc (preOffset nnn))

/-- `SE Vx,byte`, rule R78. -/
def execSeVxByte (x : Reg) (kk : Byte) (s : State) : Result := .next (s.skipIf (decide (s.getV x = kk)))

/-- `SNE Vx,byte`, rule R79. -/
def execSneVxByte (x : Reg) (kk : Byte) (s : State) : Result := .next (s.skipIf (decide (s.getV x ≠ kk)))

/-- `SE Vx,Vy`, rule R80. -/
def execSeVxVy (x y : Reg) (s : State) : Result := .next (s.skipIf (decide (s.getV x = s.getV y)))

/-- `SNE Vx,Vy`, rule R81. -/
def execSneVxVy (x y : Reg) (s : State) : Result := .next (s.skipIf (decide (s.getV x ≠ s.getV y)))

/-- `JP V0,addr`, rule R82, with the parameter `JP_V0_PREOFFSET` (log entry 8). -/
def execJpV0Addr (nnn : Addr) (s : State) : Result :=
  .next (s.setPc (jumpV0Target nnn (s.getV 0#4) Config.jpV0Preoffset))

end Sys2Proof.Machine
end

