-- ==== Sys2Proof/Machine/Flags.lean ====
section
/-! DEFINITION. The results and flags of the arithmetic and shift instructions (spec/42_load_and_alu.md rules R85, R98),
and the two orders in which result and flag are written. -/

namespace Sys2Proof.Machine

/-- A flag as the byte `VF` gets: 1 or 0. -/
def flagByte (f : Bool) : Byte := if f then 1#8 else 0#8

/-- The exact sum modulo 256 (rules R87, R92). -/
def addResult (a b : Byte) : Byte := BitVec.ofNat 8 (a.toNat + b.toNat)

/-- Carry out of bit 7: the exact sum is above 255 (rules R87, R92). -/
def carryOut (a b : Byte) : Bool := decide (255 < a.toNat + b.toNat)

/-- The exact difference modulo 256 (rules R93, R95). -/
def subResult (minuend subtrahend : Byte) : Byte := BitVec.ofInt 8 (minuend.toNat - subtrahend.toNat)

/-- Not-borrow: the minuend is at least the subtrahend (rules R93, R95). -/
def notBorrow (minuend subtrahend : Byte) : Bool := decide (subtrahend.toNat ≤ minuend.toNat)

/-- Logical shift right by one (rule R94). -/
def shrResult (a : Byte) : Byte := BitVec.ofNat 8 (a.toNat / 2)

/-- The bit a right shift moves out: bit 0 (rule R94). -/
def shrFlag (a : Byte) : Bool := a.getLsbD 0

/-- Shift left by one, the low 8 bits kept (rule R96). -/
def shlResult (a : Byte) : Byte := BitVec.ofNat 8 (a.toNat * 2)

/-- The bit a left shift moves out: bit 7 (rule R96). -/
def shlFlag (a : Byte) : Bool := a.getLsbD 7

/-- Result first, flag second: with `x = 15` the flag wins (rule R85; log entry 12). -/
def State.resultThenFlag (x : Reg) (result : Byte) (flag : Bool) (s : State) : State :=
  (s.setV x result).setV flagReg (flagByte flag)

/-- Flag first, result second: with `x = 15` the result wins (rule R85; log entry 12). -/
def State.flagThenResult (x : Reg) (result : Byte) (flag : Bool) (s : State) : State :=
  (s.setV flagReg (flagByte flag)).setV x result

end Sys2Proof.Machine
end

