-- ==== Sys2Proof/Machine/DisplayOps.lean ====
section
/-! DEFINITION. The execute phase of the display instructions (spec/44_display.md). -/

namespace Sys2Proof.Machine

/-- `CLS`, rule R111. -/
def execCls (s : State) : Result := .next (s.setDisplay Display.clear)

/-- `DRW Vx,Vy,n`, rule R112: the coordinates are latched before `VF` is written (log entry 12), all addresses are checked
before anything changes, and `VF` ends as the collision. -/
def execDrwVxVyN (x y : Reg) (n : Nat) (s : State) : Result :=
  match s.loadBytes s.base n with
  | .error f => raise f s
  | .ok rows =>
    .next ((s.setV flagReg (flagByte (drawSprite Config.drawWrap (s.getV x).toNat (s.getV y).toNat rows s.display).2)).setDisplay
      (drawSprite Config.drawWrap (s.getV x).toNat (s.getV y).toNat rows s.display).1)

end Sys2Proof.Machine
end

