-- ==== Sys2Proof/Machine/IndexMemory.lean ====
section
/-! DEFINITION. The execute phase of the address-register and memory instructions (spec/43_index_and_memory.md). -/

namespace Sys2Proof.Machine

/-- `LD I,addr`, rule R101. -/
def execLdIAddr (nnn : Addr) (s : State) : Result := .next (s.setI (extendAddr nnn))

/-- `ADD I,Vx`, rule R102: wraps modulo 65536, no flag. -/
def execAddIVx (x : Reg) (s : State) : Result := .next (s.setI (s.regI + extendByte (s.getV x)))

/-- `LD F,Vx`, rule R103. -/
def execLdFVx (x : Reg) (s : State) : Result := .next (s.setI (glyphAddress (s.getV x)))

/-- `LD B,Vx`, rule R104. -/
def execLdBVx (x : Reg) (s : State) : Result :=
  match s.storeBytes s.base (bcdDigits (s.getV x)) with
  | .error f => raise f s
  | .ok t => .next t

/-- `LD [I],Vx`, rule R105. -/
def execLdMemVx (x : Reg) (s : State) : Result :=
  match s.storeBytes s.base (s.regBytes 0 (x.toNat + 1)) with
  | .error f => raise f s
  | .ok t => .next t

/-- `LD Vx,[I]`, rule R106. -/
def execLdVxMem (x : Reg) (s : State) : Result :=
  match s.loadBytes s.base (x.toNat + 1) with
  | .error f => raise f s
  | .ok bytes => .next (State.loadRegs 0 bytes s)

end Sys2Proof.Machine
end

