-- ==== Sys2Proof/Machine/KeypadTimers.lean ====
section
/-! DEFINITION. The execute phase of the keypad and timer instructions (spec/45_keypad_and_timers.md). -/

namespace Sys2Proof.Machine

/-- `SKP Vx`, rule R115: the value is not masked to a key index (log entry 14). -/
def execSkpVx (x : Reg) (s : State) : Result :=
  if 15 < (s.getV x).toNat then raise (.keyIndexOutOfRange (s.getV x)) s
  else .next (s.skipIf (s.keyDown (s.getV x).toNat))

/-- `SKNP Vx`, rule R116. -/
def execSknpVx (x : Reg) (s : State) : Result :=
  if 15 < (s.getV x).toNat then raise (.keyIndexOutOfRange (s.getV x)) s
  else .next (s.skipIf (!s.keyDown (s.getV x).toNat))

/-- `LD Vx,DT`, rule R117. -/
def execLdVxDt (x : Reg) (s : State) : Result := .next (s.setV x s.dt)

/-- `LD Vx,K`, rule R118: the wait begins with the next cycle. -/
def execLdVxK (x : Reg) (s : State) : Result := .next (s.setWait x)

/-- `LD DT,Vx`, rule R119. -/
def execLdDtVx (x : Reg) (s : State) : Result := .next (s.setDt (s.getV x))

/-- `LD ST,Vx`, rule R120. -/
def execLdStVx (x : Reg) (s : State) : Result := .next (s.setSt (s.getV x))

end Sys2Proof.Machine
end

