-- ==== Sys2Proof/Machine/LoadAlu.lean ====
section
/-! DEFINITION. The execute phase of the register load, arithmetic, logic, shift and random instructions
(spec/42_load_and_alu.md). Register operands are read before anything is written (rule R85). -/

namespace Sys2Proof.Machine

/-- `LD Vx,byte`, rule R86. -/
def execLdVxByte (x : Reg) (kk : Byte) (s : State) : Result := .next (s.setV x kk)

/-- `ADD Vx,byte`, rule R87. -/
def execAddVxByte (x : Reg) (kk : Byte) (s : State) : Result :=
  .next (s.resultThenFlag x (addResult (s.getV x) kk) (carryOut (s.getV x) kk))

/-- `LD Vx,Vy`, rule R88. -/
def execLdVxVy (x y : Reg) (s : State) : Result := .next (s.setV x (s.getV y))

/-- `OR Vx,Vy`, rule R89. -/
def execOrVxVy (x y : Reg) (s : State) : Result := .next (s.setV x (s.getV x ||| s.getV y))

/-- `AND Vx,Vy`, rule R90. -/
def execAndVxVy (x y : Reg) (s : State) : Result := .next (s.setV x (s.getV x &&& s.getV y))

/-- `XOR Vx,Vy`, rule R91. -/
def execXorVxVy (x y : Reg) (s : State) : Result := .next (s.setV x (s.getV x ^^^ s.getV y))

/-- `ADD Vx,Vy`, rule R92. -/
def execAddVxVy (x y : Reg) (s : State) : Result :=
  .next (s.resultThenFlag x (addResult (s.getV x) (s.getV y)) (carryOut (s.getV x) (s.getV y)))

/-- `SUB Vx,Vy`, rule R93. -/
def execSubVxVy (x y : Reg) (s : State) : Result :=
  .next (s.resultThenFlag x (subResult (s.getV x) (s.getV y)) (notBorrow (s.getV x) (s.getV y)))

/-- `SHR Vx`, rule R94. -/
def execShrVx (x : Reg) (s : State) : Result :=
  .next (s.flagThenResult x (shrResult (s.getV x)) (shrFlag (s.getV x)))

/-- `SUBN Vx,Vy`, rule R95. -/
def execSubnVxVy (x y : Reg) (s : State) : Result :=
  .next (s.resultThenFlag x (subResult (s.getV y) (s.getV x)) (notBorrow (s.getV y) (s.getV x)))

/-- `SHL Vx`, rule R96. -/
def execShlVx (x : Reg) (s : State) : Result :=
  .next (s.flagThenResult x (shlResult (s.getV x)) (shlFlag (s.getV x)))

/-- `RND Vx,byte`, rule R97: the byte comes from the input port `rnd_in` (log entry 1). -/
def execRndVxByte (x : Reg) (kk : Byte) (s : State) : Result := .next (s.setV x (s.rndIn &&& kk))

end Sys2Proof.Machine
end

