-- ==== Sys2Proof/Machine/Cycle.lean ====
section
/-! DEFINITION. The cycle driver (spec/40_cycle_driver.md rules R61 to R71): the phases, one definition each, and the whole
cycle in the order of rule R70. -/

namespace Sys2Proof.Machine

/-- Phases 1 and 2: the keypad latch takes the snapshot (rule R61), and `tone_active` is sampled from `ST` as it is at the
start of the cycle (rule R62). -/
def State.latchInputs (s : State) : State :=
  (s.setKeypad s.keysIn).setOutputs s.redrawNeeded (decide (s.st ≠ 0#8))

/-- Phase 3w: the lowest pressed key, if there is one, goes to the recorded register and the wait ends (rule R63). -/
def State.resolveWait (s : State) : State :=
  match lowestKey s.keypad with
  | some k => (s.setV s.waitReg (BitVec.ofNat 8 k)).clearWait
  | none => s

/-- Phase 3: the word at `pc`, high byte first, or the fault of the access; `pc + 1` does not wrap (rule R64). -/
def State.fetchWord (s : State) : Except Fault Word :=
  match accessFault s.pc.toNat 2 with
  | some f => .error f
  | none => .ok (wordOfBytes (s.readByte s.pc.toNat) (s.readByte (s.pc.toNat + 1)))

/-- One countdown: it stops at 0 (rule R67). -/
def countdown (b : Byte) : Byte := if b = 0#8 then 0#8 else b - 1#8

/-- Phase 6: both timers tick (rule R67). -/
def State.tickTimers (s : State) : State := (s.setDt (countdown s.dt)).setSt (countdown s.st)

/-- Phase 7: `pc <- (pc + 2) mod 65536` (rule R68). -/
def State.advancePc (s : State) : State := s.setPc (s.pc + 2#16)

/-- Phase 8: `redraw_needed` reports `redraw_flag`, which is cleared (rule R69); the cycle's input is consumed. -/
def State.emitOutputs (s : State) : State := ((s.setOutputs s.redrawFlag s.toneActive).clearRedraw).consumeInput

/-- A faulting cycle leaves the keypad latch as it was before the cycle too (rule R127). -/
def State.haltAfter (before s : State) : State := s.setKeypad before.keypad

/-- What follows the execute phase: after a fault nothing more (rules R66, R127), otherwise phases 6 to 8. The core was not
halted before, so the latch shows whether this cycle faulted. -/
def finishCycle (before : State) (r : Result) : Result :=
  match r with
  | .next t => if t.faultCode = 0#3 then .next (((t.tickTimers).advancePc).emitOutputs) else .next (State.haltAfter before t)
  | .fault f => .fault f
  | .refused f => .refused f

/-- A cycle requested while halted: nothing changes and the outputs are 0 (rule R71). -/
def State.haltedCycle (s : State) : State := s.setOutputs false false

/-- Phases 3 to 8 of a `Running` cycle, from the state after phase 2: fetch, dispatch, execute, finish (rules R64 to R70). An
unknown word raises `UnknownInstruction` (spec/60_exceptions.md rule R128). -/
def runInstruction (before s : State) : Result :=
  match s.fetchWord with
  | .error f => finishCycle before (raise f s)
  | .ok w =>
    match decodeWord w with
    | none => finishCycle before (raise (.unknownInstruction w) s)
    | some i => finishCycle before (exec i s)

/-- The whole cycle (rule R70). -/
def runCycle (s : State) : Result :=
  if s.faultCode ≠ 0#3 then .next s.haltedCycle
  else if s.waiting then .next (s.latchInputs.resolveWait.emitOutputs)
  else runInstruction s s.latchInputs

end Sys2Proof.Machine
end

