-- ==== Sys2Proof/Machine/Step.lean ====
section
/-! DEFINITION. One step of the machine is one cycle (spec/40_cycle_driver.md rule R70). -/

namespace Sys2Proof.Machine

/-- One cycle, with the inputs the state holds for it (log entry 1). -/
def step (s : State) : Host.Outcome State Fault Refusal := runCycle s

/-- The state with an instruction word stored at `pc`, high byte first, and with the two things cleared that would keep the
next step from fetching it: a wait for a key and a fault (log entry 16). The bits of the word above `nbits` are zero. -/
def State.withFetchWord (s : State) (nbits w : Nat) : State :=
  { s with mem := s.mem.writeBytes s.pc.toNat (bytesOfWord (BitVec.ofNat 16 (w % 2 ^ nbits))),
           waiting := false, faultCode := 0#3 }

end Sys2Proof.Machine
end

