-- ==== Sys2Proof/Machine/Reset.lean ====
section
/-! DEFINITION. Reset with a program image (spec/70_reset_and_hazards.md rules R145 to R147). -/

namespace Sys2Proof.Machine

/-- Reset: every element of the state goes to its reset value, whatever it held (rule R145). An image that fits is copied to
0x200 on, byte for byte (rule R146). One that is too long loads nothing and leaves the core halted with `ProgramTooLong`
(rule R147; log entry 25). -/
def State.resetWith (image : List Byte) : State :=
  if image.length ≤ Config.progMax then State.reset.setMem (State.reset.mem.writeBytes Config.progBase image)
  else State.reset.takeFault (.programTooLong image.length)

end Sys2Proof.Machine
end

