-- ==== Sys2Proof/Safety.lean ====
section
/-! DEFINITION. The terms claims are stated in: the parts of the state and what it is for one to be unchanged, the launch
premises of spec/70_reset_and_hazards.md rule R160, the invariant of cycle boundaries, and when an answer is a fault. -/

namespace Sys2Proof.Machine

/-! ### Parts of the state and frames -/

/-- Everything a state consists of, part by part, as the spec's rules name it. -/
inductive Part where
  /-- `V[r]` -/
  | v (r : Reg)
  /-- `I` -/
  | regI
  /-- `pc` -/
  | pc
  /-- `stack[k]` -/
  | slot (k : BitVec 4)
  /-- `sp` -/
  | sp
  /-- `display[p]` -/
  | pixel (p : Pixel)
  /-- `DT` -/
  | dt
  /-- `ST` -/
  | st
  /-- the keypad latch -/
  | keypad
  /-- `waiting` -/
  | waiting
  /-- `wait_reg` -/
  | waitReg
  /-- `redraw_flag` -/
  | redrawFlag
  /-- the fault latch: code, pc and info -/
  | faultLatch
  /-- `mem[a]`, through the model's read of one byte -/
  | byte (a : Nat)
  /-- the output ports `redraw_needed` and `tone_active` -/
  | outputs
  /-- the model's own queue of inputs and its counter -/
  | inputs
deriving DecidableEq, Repr

/-- The part has the same value in both states. -/
def Part.Same : Part → State → State → Prop
  | .v r, s, t => t.getV r = s.getV r
  | .regI, s, t => t.regI = s.regI
  | .pc, s, t => t.pc = s.pc
  | .slot k, s, t => t.slot k = s.slot k
  | .sp, s, t => t.sp = s.sp
  | .pixel p, s, t => t.pixel p = s.pixel p
  | .dt, s, t => t.dt = s.dt
  | .st, s, t => t.st = s.st
  | .keypad, s, t => t.keypad = s.keypad
  | .waiting, s, t => t.waiting = s.waiting
  | .waitReg, s, t => t.waitReg = s.waitReg
  | .redrawFlag, s, t => t.redrawFlag = s.redrawFlag
  | .faultLatch, s, t => t.faultCode = s.faultCode ∧ t.faultPc = s.faultPc ∧ t.faultInfo = s.faultInfo
  | .byte a, s, t => t.readByte a = s.readByte a
  | .outputs, s, t => t.redrawNeeded = s.redrawNeeded ∧ t.toneActive = s.toneActive
  | .inputs, s, t => t.inputs = s.inputs ∧ t.inputCount = s.inputCount

/-- The frame: every part that is not written is unchanged, every byte of memory and every pixel among them. -/
def Unchanged (written : Part → Prop) (s t : State) : Prop := ∀ p, ¬ written p → p.Same s t

/-! ### Premises -/

/-- `NoFault` (rule R160). -/
abbrev State.NoFault (s : State) : Prop := s.faultCode = 0#3

/-- `Running` (rule R160). -/
abbrev State.Running (s : State) : Prop := s.waiting = false

/-- The next cycle fetches the word `w`: the core is not halted and not waiting, `pc` can be fetched from, and the two bytes
there are `w`, high byte first (rules R64, R70). -/
abbrev State.Fetches (s : State) (w : Word) : Prop :=
  s.NoFault ∧ s.Running ∧ s.pc.toNat ≤ 4094 ∧
  s.readByte s.pc.toNat = highByte w ∧ s.readByte (s.pc.toNat + 1) = lowByte w

/-- An access to `count` bytes at `I` stays inside the 4096 bytes; an access to no byte always does (rules R34, R112). -/
abbrev State.InRange (s : State) (count : Nat) : Prop := count = 0 ∨ s.regI.toNat + count ≤ 4096

/-- Some bit that is 1 of the sprite of `n` bytes at `I`, drawn at column `V[x]` and row `V[y]`, has the linear index of the pixel
(rule R112, `DRAW_WRAP` = `linear`). -/
def SpriteHits (s : State) (x y : Reg) (n : Nat) (q : Pixel) : Prop :=
  ∃ row < n, ∃ col < 8, (s.readByte (s.regI.toNat + row)).getLsbD (7 - col) = true ∧
    q.val = (((s.getV y).toNat + row) * 64 + ((s.getV x).toNat + col)) % 2048

/-! ### The invariant of cycle boundaries -/

/-- What holds at every cycle boundary: memory is canonical (rule R30); `redraw_flag` is 0 (rule R21); the fault code is
one of rule R126's; without a fault the latch is clear (rule R22); a halted core's outputs are 0 (rules R71, R127). -/
abbrev State.Inv (s : State) : Prop :=
  s.mem.wf = true ∧ s.redrawFlag = false ∧ s.faultCode ≠ 7#3 ∧
  (s.faultCode = 0#3 → s.faultPc = 0#16 ∧ s.faultInfo = 0#16) ∧
  (s.faultCode ≠ 0#3 → s.redrawNeeded = false ∧ s.toneActive = false)

/-- Every part that the table of spec/10_state.md rule R25 gives a value after reset with an image that fits, memory apart, has that
value: `pc` and `sp` from the spec's source, the fault latch by decision D9, all others by decision D13 (log entries 2 and 6). The
table leaves the stack slots unspecified. -/
def State.AtReset (s : State) : Prop :=
  (∀ r, s.getV r = 0#8) ∧ s.regI = 0#16 ∧ s.pc = 0x0200#16 ∧ s.sp = 0#4 ∧ (∀ q, s.pixel q = false) ∧ s.dt = 0#8 ∧
  s.st = 0#8 ∧ s.keypad = 0#16 ∧ s.waiting = false ∧ s.waitReg = 0#4 ∧ s.redrawFlag = false ∧ s.faultCode = 0#3 ∧
  s.faultPc = 0#16 ∧ s.faultInfo = 0#16

/-! ### Answers -/

/-- The answer is the fault entry of rule R127 from `s`: code and info as given, `fault_pc` the `pc` of `s`, outputs 0, and
nothing else changed. -/
def TakesFault (code : BitVec 3) (info : Word) (s : State) (r : Result) : Prop :=
  ∃ t, r = .next t ∧ t.faultCode = code ∧ t.faultPc = s.pc ∧ t.faultInfo = info ∧
    t.redrawNeeded = false ∧ t.toneActive = false ∧
    Unchanged (fun p => p = .faultLatch ∨ p = .outputs) s t

/-- The answer is a next state with the property, and nothing but the parts written has changed. -/
def Completes (written : Part → Prop) (s : State) (r : Result) (holds : State → Prop) : Prop :=
  ∃ t, r = .next t ∧ holds t ∧ Unchanged written s t

/-- The byte at an address once the bytes have been stored at `I` and on. -/
def State.byteAfterStore (s : State) (bytes : List Byte) (a : Nat) : Byte :=
  if s.regI.toNat ≤ a ∧ a < s.regI.toNat + bytes.length then bytes.getD (a - s.regI.toNat) 0#8 else s.readByte a

/-- A cycle that starts in `s` ends, without a fault, 2 beyond its `pc` and with the bytes stored at `I`, and the next cycle fetches
the word they leave there, wherever `pc + 2` can be fetched from (spec/20_memory.md rule R40). -/
def NextFetchSeesStore (s : State) (bytes : List Byte) : Prop :=
  ∃ u, step s = .next u ∧ u.NoFault ∧ u.pc = s.pc + 2#16 ∧ (∀ a, u.readByte a = s.byteAfterStore bytes a) ∧
    (s.pc.toNat ≤ 4092 →
      u.Fetches (wordOfBytes (s.byteAfterStore bytes (s.pc.toNat + 2)) (s.byteAfterStore bytes (s.pc.toNat + 3))))

/-- Every word with these selecting bits decodes to the instruction its fields give (rule R50). -/
def Selects (mask pattern : Word) (instr : Word → Instr) : Prop :=
  ∀ w : Word, w &&& mask = pattern → decodeWord w = some (instr w)

/-- A cycle that starts in `s` ends, without a fault, with this `pc` (the cycle level of rule R72). -/
def EndsWithPc (target : Word) (s : State) : Prop := ∃ u, step s = .next u ∧ u.NoFault ∧ u.pc = target

end Sys2Proof.Machine
end

