-- ==== Sys2Proof/Certificates/Slice0/Obligations.lean ====
section
/-! DEFINITION. The statements for the provers, from the numbered rules of spec/. Each instruction's statement says that
`exec` answers a next state, what that state holds, and its frame: `Completes written s r holds` is "r is a next state, `holds`
of it, and every part of the state outside `written` is unchanged, every byte of memory and every pixel among them".
`exec` is the routine level of rule R72 (the execute phase); `step` is the cycle level. -/

open Sys2Proof Sys2Proof.Machine

/-! ### Encoding (spec/30_encoding.md); the opcode numbers are the spec's decision D19 (log entry 11), the canonical words its
statement G3 (log entry 23) -/

/-- The decoder reads back every operand of every well-formed instruction from its canonical word, at every value. -/
def Obligations.DecodeOfEncode : Prop :=
  ∀ i : Instr, i.wellFormed = true → decodeWord (encode i) = some i

/-- A word that decodes lies in its instruction's row of the opcode map, gives a well-formed instruction, and differs from
that instruction's canonical word in ignored bits only: no operand bit is dropped. -/
def Obligations.DecodedWordHasOneMeaning : Prop :=
  ∀ (w : Word) (i : Instr), decodeWord w = some i →
    i.wellFormed = true ∧ w &&& opcodeMask i = opcodeMatch i ∧
    w &&& ~~~ignoredBits i = encode i &&& ~~~ignoredBits i

/-- Words that differ in the ignored bits of the instruction they select decode to the same instruction (rule R51). -/
def Obligations.IgnoredBitsDoNotSelect : Prop :=
  ∀ (w w' : Word) (i : Instr), decodeWord w = some i →
    w' &&& ~~~ignoredBits i = w &&& ~~~ignoredBits i → decodeWord w' = some i

/-- The words that select the "unknown instruction" routine are exactly those rule R52 lists by primary and secondary key. -/
def Obligations.UnknownWordsExactly : Prop :=
  ∀ w : Word, decodeWord w = none ↔
    (fieldN1 w = 0x0#4 ∧ fieldN w ∉ [0x0#4, 0xE#4]) ∨
    (fieldN1 w = 0x8#4 ∧ fieldN w ∈ [0x8#4, 0x9#4, 0xA#4, 0xB#4, 0xC#4, 0xD#4, 0xF#4]) ∨
    (fieldN1 w = 0xE#4 ∧ fieldN w ∉ [0x1#4, 0xE#4]) ∨
    (fieldN1 w = 0xF#4 ∧ fieldKk w ∉ [0x07#8, 0x0A#8, 0x15#8, 0x18#8, 0x1E#8, 0x29#8, 0x33#8, 0x55#8, 0x65#8])

/-- A few words written out from the opcode map decode to the instructions they stand for. -/
def Obligations.WrittenOutWordsDecode : Prop :=
  decodeWord 0x1536#16 = some (.jpAddr 0x536#12) ∧
  decodeWord 0x6A03#16 = some (.ldVxByte 0xA#4 0x03#8) ∧
  decodeWord 0x8127#16 = some (.subnVxVy 1#4 2#4) ∧
  decodeWord 0xD122#16 = some (.drwVxVyN 1#4 2#4 2) ∧
  decodeWord 0xE40E#16 = some (.skpVx 4#4) ∧
  decodeWord 0xF333#16 = some (.ldBVx 3#4) ∧
  decodeWord 0x0120#16 = some .cls ∧
  decodeWord 0xF166#16 = none

/-! ### The cycle (spec/40_cycle_driver.md, spec/60_exceptions.md) -/

/-- A cycle that fetches a word of an instruction runs exactly that instruction's execute phase on the latched state, and
then finishes as `finishCycle` says (phases 6 to 8, or nothing more after a fault). -/
def Obligations.StepRunsTheDecodedInstruction : Prop :=
  ∀ (s : State) (w : Word) (i : Instr), s.Fetches w → decodeWord w = some i →
    step s = finishCycle s (exec i s.latchInputs)

/-- What the cycle does around an execute phase that did not fault: both timers count down to 0 and stop there (decision D15; log
entry 21), `pc` advances by 2 modulo 65536 (decision D3; log entry 13), `redraw_flag` is reported and cleared, the input is consumed
(log entries 1 and 20), and nothing else changes. -/
def Obligations.FinishedCycleTicksAdvancesAndReports : Prop :=
  ∀ before t : State, t.NoFault →
    Completes (fun p => p = .dt ∨ p = .st ∨ p = .pc ∨ p = .redrawFlag ∨ p = .outputs ∨ p = .inputs) t
      (finishCycle before (.next t)) fun u =>
        u.dt.toNat = t.dt.toNat - 1 ∧ u.st.toNat = t.st.toNat - 1 ∧ u.pc = t.pc + 2#16 ∧
        u.redrawNeeded = t.redrawFlag ∧ u.redrawFlag = false ∧ u.toneActive = t.toneActive ∧
        u.inputs = t.inputs.tail

/-- A cycle that does not end halted has latched its own snapshot and reports the tone from `ST` as it was when the cycle
began: no instruction changes either (rules R61, R62; a wait cycle included, which the spec marks as its decisions D25, D17). -/
def Obligations.CycleLatchesKeysAndSamplesTone : Prop :=
  ∀ s u : State, step s = .next u → u.NoFault →
    u.keypad = s.keysIn ∧ u.toneActive = decide (s.st ≠ 0#8)

/-- `redraw_needed` is 1 exactly in the cycles that executed `CLS` or `DRW` without a fault (rule R69, which the spec
marks derived), from every state with `redraw_flag` 0. -/
def Obligations.RedrawReportedExactlyByDisplayInstructions : Prop :=
  ∀ s u : State, s.redrawFlag = false → step s = .next u →
    (u.redrawNeeded = true ↔
      u.NoFault ∧ ∃ w, s.Fetches w ∧ (decodeWord w = some .cls ∨ ∃ x y n, decodeWord w = some (.drwVxVyN x y n)))

/-- A `WaitingForKey` cycle with a key down writes the lowest-numbered pressed key to the recorded register and ends the wait;
with no key down the wait persists; in either case `pc`, the timers and everything else stand still. -/
def Obligations.KeyWaitTakesTheLowestPressedKey : Prop :=
  ∀ s : State, s.NoFault → s.waiting = true →
    (∀ k : Nat, k < 16 → s.keysIn.getLsbD k = true → (∀ j < k, s.keysIn.getLsbD j = false) →
      Completes (fun p => p = .v s.waitReg ∨ p = .waiting ∨ p = .keypad ∨ p = .redrawFlag ∨ p = .outputs ∨ p = .inputs) s
        (step s) fun u => u.getV s.waitReg = BitVec.ofNat 8 k ∧ u.waiting = false) ∧
    (s.keysIn = 0#16 →
      Completes (fun p => p = .keypad ∨ p = .redrawFlag ∨ p = .outputs ∨ p = .inputs) s
        (step s) fun u => u.waiting = true)

/-- The halt is sticky: however many cycles the host requests, a halted core's state does not change and its outputs are 0 (rule R71,
decision D24). -/
def Obligations.HaltIsSticky : Prop :=
  ∀ (s : State) (k : Nat), ¬ s.NoFault →
    Sys2Proof.core.run (k + 1) s = .next { s with redrawNeeded := false, toneActive := false }

/-- A cycle that ends halted although it did not begin so has changed nothing but the fault latch, which names the `pc` of the
cycle, and its outputs are 0 (rule R127, decision D9): faults are precise, over all instructions. -/
def Obligations.FaultingCycleWritesOnlyTheLatch : Prop :=
  ∀ s u : State, s.NoFault → step s = .next u → ¬ u.NoFault →
    u.faultPc = s.pc ∧ u.redrawNeeded = false ∧ u.toneActive = false ∧
    Unchanged (fun p => p = .faultLatch ∨ p = .outputs) s u

/-- A fetch at a `pc` above 4094 takes `MemoryOutOfRange` with the lowest offending address (rules R64, R131, decision D5). -/
def Obligations.FetchOutOfRangeFaults : Prop :=
  ∀ s : State, s.NoFault → s.Running → 4094 < s.pc.toNat →
    TakesFault 4#3 (if s.pc = 4095#16 then 4096#16 else s.pc) s (step s)

/-- A fetched word that matches no row takes `UnknownInstruction` with the word (rule R128, decisions D7, D9). -/
def Obligations.UnknownWordHaltsTheCore : Prop :=
  ∀ (s : State) (w : Word), s.Fetches w → decodeWord w = none → TakesFault 1#3 w s (step s)

/-- Every cycle, from every state, answers a next state: there is no interrupt, trap handler or stuck state, and taking a fault
is a next state too (rules R70, R71, R127; decision D9, log entry 6). -/
def Obligations.EveryCycleAnswersANextState : Prop :=
  ∀ s : State, ∃ u, step s = .next u

/-! ### Invariant and reset (spec/10_state.md, spec/70_reset_and_hazards.md) -/

/-- Every cycle keeps the invariant of cycle boundaries: canonical memory, the model's own form; `redraw_flag` 0 (rule R21, which the
spec marks derived); a legal fault code and a clear latch without a fault (decision D9; log entry 6); quiet outputs when halted
(decisions D17, D24; log entry 18). -/
def Obligations.EveryCycleKeepsTheInvariant : Prop :=
  ∀ s u : State, s.Inv → step s = .next u → u.Inv

/-- The invariant holds right after reset: `redraw_flag` is 0 by decision D13 (log entry 2), the latch is clear by decision D9 (log
entry 6), and memory is canonical, the model's own form. -/
def Obligations.ResetMeetsTheInvariant : Prop := State.reset.Inv

/-- Reset with an image that fits: every part that the table of rule R25 gives a value has it (all but `pc`, `sp` and memory by decision
D13, log entry 2; the fault latch by D9, log entry 6), and memory holds the glyph table, zeros, the image from 0x200 on, and zeros
(rules R145 to R147, D14, D18; log entry 10). `State.reset` is reset with the empty image (log entry 16). -/
def Obligations.ResetLoadsAFittingImage : Prop :=
  ∀ image : List Byte, image.length ≤ 3584 →
    (State.resetWith image).Inv ∧ (State.resetWith image).AtReset ∧
    (∀ a < 4096, (State.resetWith image).readByte a =
      if a < 0x50 then Config.glyphs.getD a 0#8
      else if 0x200 ≤ a ∧ a < 0x200 + image.length then image.getD (a - 0x200) 0#8 else 0#8) ∧
    State.resetWith [] = State.reset

/-- Reset with an image that does not fit loads nothing of it and leaves the core halted with `ProgramTooLong` (rule R147,
decision D14; log entry 25). -/
def Obligations.ResetRejectsALongImage : Prop :=
  ∀ image : List Byte, 3584 < image.length →
    TakesFault 6#3 (BitVec.ofNat 16 (min image.length 0xFFFF)) State.reset (.next (State.resetWith image)) ∧
    (State.resetWith image).faultPc = 0x0200#16

/-! ### Whole-machine rules over all instructions -/

/-- Only `CLS` and `DRW` write the display or set `redraw_flag` in the execute phase (rules R16, R21). -/
def Obligations.OnlyDisplayInstructionsWriteTheDisplay : Prop :=
  ∀ (i : Instr) (s t : State), exec i s = .next t →
    (∃ p, ¬ (Part.pixel p).Same s t) ∨ t.redrawFlag ≠ s.redrawFlag → i = .cls ∨ ∃ x y n, i = .drwVxVyN x y n

/-- Only `LD B,Vx` and `LD [I],Vx` write memory (rule R31), and only at `I` to `I + 15` and below 4096: that a store past 4095 writes
nothing and does not wrap is decision D5 (log entry 7). -/
def Obligations.OnlyStoresWriteMemory : Prop :=
  ∀ (i : Instr) (s t : State) (a : Nat), exec i s = .next t → t.readByte a ≠ s.readByte a →
    ((∃ x, i = .ldBVx x) ∨ ∃ x, i = .ldMemVx x) ∧ s.regI.toNat ≤ a ∧ a < s.regI.toNat + 16 ∧ a < 4096

/-- Only `CALL` and `RET` touch the return stack, and only `CALL` writes a slot (rule R14). That it never writes slot 0 the spec marks
derived there, and over all states it holds because `CALL` with `sp` 15 overflows (decision D6; log entry 15). -/
def Obligations.OnlyCallAndRetTouchTheStack : Prop :=
  ∀ (i : Instr) (s t : State), exec i s = .next t →
    (t.sp ≠ s.sp → i = .ret ∨ ∃ nnn, i = .callAddr nnn) ∧
    (∀ k, t.slot k ≠ s.slot k → k ≠ 0#4 ∧ ∃ nnn, i = .callAddr nnn)

/-- `I`, `DT`, `ST` and the wait are written in the execute phase only by the instructions their rules name (rules R12, R17,
R18, R20; that the four instructions which use `I` as a base leave it alone rules R12 and R100 mark derived). -/
def Obligations.OnlyNamedInstructionsWriteIAndTimersAndWait : Prop :=
  ∀ (i : Instr) (s t : State), exec i s = .next t →
    (t.regI ≠ s.regI → (∃ nnn, i = .ldIAddr nnn) ∨ (∃ x, i = .addIVx x) ∨ ∃ x, i = .ldFVx x) ∧
    (t.dt ≠ s.dt → ∃ x, i = .ldDtVx x) ∧ (t.st ≠ s.st → ∃ x, i = .ldStVx x) ∧
    (t.waiting ≠ s.waiting ∨ t.waitReg ≠ s.waitReg → ∃ x, i = .ldVxK x)

/-- An instruction that changes `VF` is one of the seven flag-writing instructions of rule R11 or names `V[15]` as its `x`
(rule R11, which the spec marks derived). -/
def Obligations.FlagRegisterChangedOnlyByFlagInstructions : Prop :=
  ∀ (i : Instr) (s t : State), exec i s = .next t → t.getV flagReg ≠ s.getV flagReg →
    (∃ x kk, i = .addVxByte x kk) ∨ (∃ x y, i = .addVxVy x y) ∨ (∃ x y, i = .subVxVy x y) ∨
    (∃ x y, i = .subnVxVy x y) ∨ (∃ x, i = .shrVx x) ∨ (∃ x, i = .shlVx x) ∨ (∃ x y n, i = .drwVxVyN x y n) ∨
    (∃ kk, i = .ldVxByte flagReg kk) ∨ (∃ kk, i = .rndVxByte flagReg kk) ∨ (∃ y, i = .ldVxVy flagReg y) ∨
    (∃ y, i = .orVxVy flagReg y) ∨ (∃ y, i = .andVxVy flagReg y) ∨ (∃ y, i = .xorVxVy flagReg y) ∨
    i = .ldVxDt flagReg ∨ i = .ldVxMem flagReg

/-! ### Control transfer (spec/41_control_flow.md) -/

/-- `RET` (rule R75): with `sp` above 0 it restores the address of the matching `CALL` and the cycle ends 2 beyond it; with `sp` 0
it takes `StackUnderflow` (decision D6). -/
def Obligations.RetPopsTheCallAddress : Prop :=
  Selects 0xF00F#16 0x000E#16 (fun _ => .ret) ∧
  (∀ s : State, s.sp ≠ 0#4 →
    Completes (fun p => p = .pc ∨ p = .sp) s (exec .ret s) fun t =>
      t.pc = s.slot s.sp ∧ t.sp.toNat = s.sp.toNat - 1) ∧
  (∀ s : State, s.sp = 0#4 → TakesFault 2#3 0#16 s (exec .ret s)) ∧
  ∀ (s : State) (w : Word), s.Fetches w → w &&& 0xF00F#16 = 0x000E#16 → s.sp ≠ 0#4 → EndsWithPc (s.slot s.sp + 2#16) s

/-- `JP addr` (rule R76): the routine writes `addr - 2` modulo 65536 (decision D3), the cycle ends at `addr`. -/
def Obligations.JpGoesToItsAddress : Prop :=
  Selects 0xF000#16 0x1000#16 (fun w => .jpAddr (fieldNnn w)) ∧
  (∀ (s : State) (nnn : Addr),
    Completes (fun p => p = .pc) s (exec (.jpAddr nnn) s) fun t =>
      t.pc.toNat = (nnn.toNat + 65534) % 65536) ∧
  ∀ (s : State) (w : Word), s.Fetches w → w &&& 0xF000#16 = 0x1000#16 → EndsWithPc ((fieldNnn w).setWidth 16) s

/-- `CALL addr` (rule R77): with `sp` below 15 it pushes its own address on the next slot and the cycle ends at `addr`; with `sp`
15 it takes `StackOverflow` (decision D6). -/
def Obligations.CallPushesItsOwnAddress : Prop :=
  Selects 0xF000#16 0x2000#16 (fun w => .callAddr (fieldNnn w)) ∧
  (∀ (s : State) (nnn : Addr), s.sp ≠ 15#4 →
    Completes (fun p => p = .pc ∨ p = .sp ∨ p = .slot (s.sp + 1#4)) s (exec (.callAddr nnn) s) fun t =>
      t.sp.toNat = s.sp.toNat + 1 ∧ t.slot t.sp = s.pc ∧ t.pc.toNat = (nnn.toNat + 65534) % 65536) ∧
  (∀ (s : State) (nnn : Addr), s.sp = 15#4 → TakesFault 3#3 0#16 s (exec (.callAddr nnn) s)) ∧
  ∀ (s : State) (w : Word), s.Fetches w → w &&& 0xF000#16 = 0x2000#16 → s.sp ≠ 15#4 →
    EndsWithPc ((fieldNnn w).setWidth 16) s

/-- `SE Vx,byte` (rule R78), at both levels. -/
def Obligations.SkipIfRegisterEqualsByte : Prop :=
  Selects 0xF000#16 0x3000#16 (fun w => .seVxByte (fieldX w) (fieldKk w)) ∧
  (∀ (s : State) (x : Reg) (kk : Byte),
    Completes (fun p => p = .pc) s (exec (.seVxByte x kk) s) fun t =>
      t.pc = if s.getV x = kk then s.pc + 2#16 else s.pc) ∧
  ∀ (s : State) (w : Word), s.Fetches w → w &&& 0xF000#16 = 0x3000#16 →
    EndsWithPc (if s.getV (fieldX w) = fieldKk w then s.pc + 4#16 else s.pc + 2#16) s

/-- `SNE Vx,byte` (rule R79), at both levels. -/
def Obligations.SkipIfRegisterDiffersFromByte : Prop :=
  Selects 0xF000#16 0x4000#16 (fun w => .sneVxByte (fieldX w) (fieldKk w)) ∧
  (∀ (s : State) (x : Reg) (kk : Byte),
    Completes (fun p => p = .pc) s (exec (.sneVxByte x kk) s) fun t =>
      t.pc = if s.getV x ≠ kk then s.pc + 2#16 else s.pc) ∧
  ∀ (s : State) (w : Word), s.Fetches w → w &&& 0xF000#16 = 0x4000#16 →
    EndsWithPc (if s.getV (fieldX w) ≠ fieldKk w then s.pc + 4#16 else s.pc + 2#16) s

/-- `SE Vx,Vy` (rule R80), at both levels; nibble 4 is ignored. -/
def Obligations.SkipIfRegistersEqual : Prop :=
  Selects 0xF000#16 0x5000#16 (fun w => .seVxVy (fieldX w) (fieldY w)) ∧
  (∀ (s : State) (x y : Reg),
    Completes (fun p => p = .pc) s (exec (.seVxVy x y) s) fun t =>
      t.pc = if s.getV x = s.getV y then s.pc + 2#16 else s.pc) ∧
  ∀ (s : State) (w : Word), s.Fetches w → w &&& 0xF000#16 = 0x5000#16 →
    EndsWithPc (if s.getV (fieldX w) = s.getV (fieldY w) then s.pc + 4#16 else s.pc + 2#16) s

/-- `SNE Vx,Vy` (rule R81), at both levels; nibble 4 is ignored. -/
def Obligations.SkipIfRegistersDiffer : Prop :=
  Selects 0xF000#16 0x9000#16 (fun w => .sneVxVy (fieldX w) (fieldY w)) ∧
  (∀ (s : State) (x y : Reg),
    Completes (fun p => p = .pc) s (exec (.sneVxVy x y) s) fun t =>
      t.pc = if s.getV x ≠ s.getV y then s.pc + 2#16 else s.pc) ∧
  ∀ (s : State) (w : Word), s.Fetches w → w &&& 0xF000#16 = 0x9000#16 →
    EndsWithPc (if s.getV (fieldX w) ≠ s.getV (fieldY w) then s.pc + 4#16 else s.pc + 2#16) s

/-- `JP V0,addr` (rule R82) with the pre-offset 0 the spec chose (decision D4; log entry 8): the cycle ends at
`addr + V[0] + 2`. -/
def Obligations.JpV0LandsTwoBeyondTheSum : Prop :=
  Selects 0xF000#16 0xB000#16 (fun w => .jpV0Addr (fieldNnn w)) ∧
  (∀ (s : State) (nnn : Addr),
    Completes (fun p => p = .pc) s (exec (.jpV0Addr nnn) s) fun t =>
      t.pc.toNat = nnn.toNat + (s.getV 0#4).toNat) ∧
  ∀ (s : State) (w : Word), s.Fetches w → w &&& 0xF000#16 = 0xB000#16 →
    EndsWithPc (BitVec.ofNat 16 ((fieldNnn w).toNat + (s.getV 0#4).toNat + 2)) s

/-! ### Load, arithmetic, logic, shift, random (spec/42_load_and_alu.md) -/

/-- `LD Vx,byte` (rule R86). -/
def Obligations.LoadByteIntoRegister : Prop :=
  Selects 0xF000#16 0x6000#16 (fun w => .ldVxByte (fieldX w) (fieldKk w)) ∧
  ∀ (s : State) (x : Reg) (kk : Byte),
    Completes (fun p => p = .v x) s (exec (.ldVxByte x kk) s) fun t => t.getV x = kk

/-- `ADD Vx,byte` (rule R87): sum modulo 256 and carry; with `x = 15` the carry wins (decision D11; log entry 12). -/
def Obligations.AddByteSetsCarry : Prop :=
  Selects 0xF000#16 0x7000#16 (fun w => .addVxByte (fieldX w) (fieldKk w)) ∧
  ∀ (s : State) (x : Reg) (kk : Byte),
    Completes (fun p => p = .v x ∨ p = .v flagReg) s (exec (.addVxByte x kk) s) fun t =>
      (x ≠ flagReg → (t.getV x).toNat = ((s.getV x).toNat + kk.toNat) % 256) ∧
      t.getV flagReg = if (s.getV x).toNat + kk.toNat > 255 then 1#8 else 0#8

/-- `LD Vx,Vy` (rule R88). -/
def Obligations.CopyRegister : Prop :=
  Selects 0xF00F#16 0x8000#16 (fun w => .ldVxVy (fieldX w) (fieldY w)) ∧
  ∀ (s : State) (x y : Reg),
    Completes (fun p => p = .v x) s (exec (.ldVxVy x y) s) fun t => t.getV x = s.getV y

/-- `OR Vx,Vy` (rule R89; that `VF` is not written the spec marks derived). -/
def Obligations.OrIsBitwise : Prop :=
  Selects 0xF00F#16 0x8001#16 (fun w => .orVxVy (fieldX w) (fieldY w)) ∧
  ∀ (s : State) (x y : Reg),
    Completes (fun p => p = .v x) s (exec (.orVxVy x y) s) fun t =>
      ∀ k < 8, (t.getV x).getLsbD k = ((s.getV x).getLsbD k || (s.getV y).getLsbD k)

/-- `AND Vx,Vy` and `XOR Vx,Vy` (rules R90, R91), the case of one register as both operands included. -/
def Obligations.AndAndXorAreBitwise : Prop :=
  Selects 0xF00F#16 0x8002#16 (fun w => .andVxVy (fieldX w) (fieldY w)) ∧
  Selects 0xF00F#16 0x8003#16 (fun w => .xorVxVy (fieldX w) (fieldY w)) ∧
  ∀ (s : State) (x y : Reg),
    Completes (fun p => p = .v x) s (exec (.andVxVy x y) s) (fun t =>
      (∀ k < 8, (t.getV x).getLsbD k = ((s.getV x).getLsbD k && (s.getV y).getLsbD k)) ∧ (x = y → t.getV x = s.getV x)) ∧
    Completes (fun p => p = .v x) s (exec (.xorVxVy x y) s) fun t =>
      (∀ k < 8, (t.getV x).getLsbD k = ((s.getV x).getLsbD k ^^ (s.getV y).getLsbD k)) ∧ (x = y → t.getV x = 0#8)

/-- `ADD Vx,Vy` (rule R92): sum modulo 256 and carry; with `x = 15` the carry wins (decision D11; log entry 12). -/
def Obligations.AddRegistersSetsCarry : Prop :=
  Selects 0xF00F#16 0x8004#16 (fun w => .addVxVy (fieldX w) (fieldY w)) ∧
  ∀ (s : State) (x y : Reg),
    Completes (fun p => p = .v x ∨ p = .v flagReg) s (exec (.addVxVy x y) s) fun t =>
      (x ≠ flagReg → (t.getV x).toNat = ((s.getV x).toNat + (s.getV y).toNat) % 256) ∧
      t.getV flagReg = if (s.getV x).toNat + (s.getV y).toNat > 255 then 1#8 else 0#8

/-- `SUB Vx,Vy` (rule R93): `Vx - Vy` modulo 256 and not-borrow; with `x = 15` the flag wins (decision D11; log entry 12). -/
def Obligations.SubSetsNotBorrow : Prop :=
  Selects 0xF00F#16 0x8005#16 (fun w => .subVxVy (fieldX w) (fieldY w)) ∧
  ∀ (s : State) (x y : Reg),
    Completes (fun p => p = .v x ∨ p = .v flagReg) s (exec (.subVxVy x y) s) fun t =>
      (x ≠ flagReg → (t.getV x).toNat = ((s.getV x).toNat + 256 - (s.getV y).toNat) % 256) ∧
      t.getV flagReg = if (s.getV x).toNat ≥ (s.getV y).toNat then 1#8 else 0#8

/-- `SUBN Vx,Vy` (rule R95): `Vy - Vx` modulo 256 and not-borrow; with `x = 15` the flag wins (decision D11; log entry 12). -/
def Obligations.SubnSetsNotBorrow : Prop :=
  Selects 0xF00F#16 0x8007#16 (fun w => .subnVxVy (fieldX w) (fieldY w)) ∧
  ∀ (s : State) (x y : Reg),
    Completes (fun p => p = .v x ∨ p = .v flagReg) s (exec (.subnVxVy x y) s) fun t =>
      (x ≠ flagReg → (t.getV x).toNat = ((s.getV y).toNat + 256 - (s.getV x).toNat) % 256) ∧
      t.getV flagReg = if (s.getV y).toNat ≥ (s.getV x).toNat then 1#8 else 0#8

/-- `SHR Vx` (rule R94): a logical shift right by one of `V[x]`, `y` ignored, `VF` the bit shifted out; with `x = 15` the result wins
(decision D11; log entry 12). -/
def Obligations.ShrShiftsOutTheLowBit : Prop :=
  Selects 0xF00F#16 0x8006#16 (fun w => .shrVx (fieldX w)) ∧
  ∀ (s : State) (x : Reg),
    Completes (fun p => p = .v x ∨ p = .v flagReg) s (exec (.shrVx x) s) fun t =>
      (t.getV x).toNat = (s.getV x).toNat / 2 ∧
      (x ≠ flagReg → (t.getV flagReg).toNat = (s.getV x).toNat % 2)

/-- `SHL Vx` (rule R96): a shift left by one of `V[x]`, `y` ignored, `VF` the bit shifted out; with `x = 15` the result wins
(decision D11; log entry 12). -/
def Obligations.ShlShiftsOutTheHighBit : Prop :=
  Selects 0xF00F#16 0x800E#16 (fun w => .shlVx (fieldX w)) ∧
  ∀ (s : State) (x : Reg),
    Completes (fun p => p = .v x ∨ p = .v flagReg) s (exec (.shlVx x) s) fun t =>
      (t.getV x).toNat = (s.getV x).toNat * 2 % 256 ∧
      (x ≠ flagReg → (t.getV flagReg).toNat = (s.getV x).toNat / 128)

/-- `RND Vx,byte` (rule R97, decision D2; log entry 1): `V[x]` is the byte on `rnd_in` masked with `kk`, whatever that byte is; the
bits outside `kk` are 0. -/
def Obligations.RndMasksTheRandomByte : Prop :=
  Selects 0xF000#16 0xC000#16 (fun w => .rndVxByte (fieldX w) (fieldKk w)) ∧
  ∀ (s : State) (x : Reg) (kk : Byte),
    Completes (fun p => p = .v x) s (exec (.rndVxByte x kk) s) fun t =>
      t.getV x = s.rndIn &&& kk ∧ t.getV x &&& ~~~kk = 0#8

/-! ### Address register and memory (spec/43_index_and_memory.md) -/

/-- `LD I,addr` (rule R101). -/
def Obligations.LoadAddressIntoI : Prop :=
  Selects 0xF000#16 0xA000#16 (fun w => .ldIAddr (fieldNnn w)) ∧
  ∀ (s : State) (nnn : Addr),
    Completes (fun p => p = .regI) s (exec (.ldIAddr nnn) s) fun t => t.regI.toNat = nnn.toNat

/-- `ADD I,Vx` (rule R102): a 16-bit add that wraps (decision D10; log entry 13) and writes no flag. -/
def Obligations.AddRegisterToIWraps : Prop :=
  Selects 0xF0FF#16 0xF01E#16 (fun w => .addIVx (fieldX w)) ∧
  ∀ (s : State) (x : Reg),
    Completes (fun p => p = .regI) s (exec (.addIVx x) s) fun t =>
      t.regI.toNat = (s.regI.toNat + (s.getV x).toNat) % 65536

/-- `LD F,Vx` (rule R103): the value is not masked. -/
def Obligations.GlyphAddressIsFiveTimesTheRegister : Prop :=
  Selects 0xF0FF#16 0xF029#16 (fun w => .ldFVx (fieldX w)) ∧
  ∀ (s : State) (x : Reg),
    Completes (fun p => p = .regI) s (exec (.ldFVx x) s) fun t => t.regI.toNat = (s.getV x).toNat * 5

/-- `LD B,Vx` (rule R104): the three digits at `I`, `I + 1`, `I + 2` when all three addresses exist, and `MemoryOutOfRange` with
nothing written otherwise (decision D5; log entry 7). -/
def Obligations.BcdStoresThreeDigits : Prop :=
  Selects 0xF0FF#16 0xF033#16 (fun w => .ldBVx (fieldX w)) ∧
  ∀ (s : State) (x : Reg), s.mem.wf = true →
    (s.InRange 3 →
      Completes (fun p => p = .byte s.regI.toNat ∨ p = .byte (s.regI.toNat + 1) ∨ p = .byte (s.regI.toNat + 2)) s
        (exec (.ldBVx x) s) fun t =>
          (t.readByte s.regI.toNat).toNat = (s.getV x).toNat / 100 ∧
          (t.readByte (s.regI.toNat + 1)).toNat = (s.getV x).toNat / 10 % 10 ∧
          (t.readByte (s.regI.toNat + 2)).toNat = (s.getV x).toNat % 10) ∧
    (¬ s.InRange 3 → TakesFault 4#3 (BitVec.ofNat 16 (max s.regI.toNat 4096)) s (exec (.ldBVx x) s))

/-- `LD [I],Vx` (rule R105): `V[0]` to `V[x]` at `I` to `I + x` when all addresses exist, and `MemoryOutOfRange` with nothing
written otherwise (decision D5; log entry 7). -/
def Obligations.StoreRegistersAtI : Prop :=
  Selects 0xF0FF#16 0xF055#16 (fun w => .ldMemVx (fieldX w)) ∧
  ∀ (s : State) (x : Reg), s.mem.wf = true →
    (s.InRange (x.toNat + 1) →
      Completes (fun p => ∃ k ≤ x.toNat, p = .byte (s.regI.toNat + k)) s
        (exec (.ldMemVx x) s) fun t =>
          ∀ r : Reg, r.toNat ≤ x.toNat → t.readByte (s.regI.toNat + r.toNat) = s.getV r) ∧
    (¬ s.InRange (x.toNat + 1) →
      TakesFault 4#3 (BitVec.ofNat 16 (max s.regI.toNat 4096)) s (exec (.ldMemVx x) s))

/-- `LD Vx,[I]` (rule R106): `V[0]` to `V[x]` from `I` to `I + x` when all addresses exist, and `MemoryOutOfRange` with nothing
changed otherwise (decision D5; log entry 7). -/
def Obligations.LoadRegistersFromI : Prop :=
  Selects 0xF0FF#16 0xF065#16 (fun w => .ldVxMem (fieldX w)) ∧
  ∀ (s : State) (x : Reg),
    (s.InRange (x.toNat + 1) →
      Completes (fun p => ∃ r : Reg, r.toNat ≤ x.toNat ∧ p = .v r) s
        (exec (.ldVxMem x) s) fun t =>
          ∀ r : Reg, r.toNat ≤ x.toNat → t.getV r = s.readByte (s.regI.toNat + r.toNat)) ∧
    (¬ s.InRange (x.toNat + 1) →
      TakesFault 4#3 (BitVec.ofNat 16 (max s.regI.toNat 4096)) s (exec (.ldVxMem x) s))

/-! ### Display (spec/44_display.md) -/

/-- `CLS` (rule R111). -/
def Obligations.ClsClearsTheDisplay : Prop :=
  Selects 0xF00F#16 0x0000#16 (fun _ => .cls) ∧
  (∀ s : State,
    Completes (fun p => (∃ q, p = .pixel q) ∨ p = .redrawFlag) s (exec .cls s) fun t =>
      (∀ q, t.pixel q = false) ∧ t.redrawFlag = true) ∧
  ∀ (s : State) (w : Word), s.Fetches w → w &&& 0xF00F#16 = 0x0000#16 →
    ∃ u, step s = .next u ∧ (∀ q, u.pixel q = false) ∧ u.redrawNeeded = true

/-- `DRW Vx,Vy,n` (rule R112) with the linear wrap the spec chose (decision D16; log entry 9) and coordinates latched before `VF`
is written (decision D12; log entry 12): each pixel is flipped exactly when some sprite bit that is 1 has its index; `VF` is the
collision; a sprite that does not lie in memory takes `MemoryOutOfRange` (decision D5; log entry 7). -/
def Obligations.DrwFlipsThePixelsUnderTheSprite : Prop :=
  Selects 0xF000#16 0xD000#16 (fun w => .drwVxVyN (fieldX w) (fieldY w) (fieldN w).toNat) ∧
  ∀ (s : State) (x y : Reg) (n : Nat), n < 16 →
    (s.InRange n →
      Completes (fun p => (∃ q, p = .pixel q) ∨ p = .v flagReg ∨ p = .redrawFlag) s (exec (.drwVxVyN x y n) s) fun t =>
        (∀ q, SpriteHits s x y n q → t.pixel q = !s.pixel q) ∧ (∀ q, ¬ SpriteHits s x y n q → t.pixel q = s.pixel q) ∧
        ((∃ q, SpriteHits s x y n q ∧ s.pixel q = true) → t.getV flagReg = 1#8) ∧
        ((∀ q, SpriteHits s x y n q → s.pixel q = false) → t.getV flagReg = 0#8) ∧
        t.redrawFlag = true) ∧
    (¬ s.InRange n → TakesFault 4#3 (BitVec.ofNat 16 (max s.regI.toNat 4096)) s (exec (.drwVxVyN x y n) s))

/-! ### Keypad and timers (spec/45_keypad_and_timers.md) -/

/-- `SKP Vx` and `SKNP Vx` (rules R115, R116), at both levels: the skip on the latched key, which in a cycle is that cycle's own
snapshot, and `KeyIndexOutOfRange` above 15 (decision D8; log entry 14). -/
def Obligations.KeySkipsTestTheLatchedKey : Prop :=
  Selects 0xF00F#16 0xE00E#16 (fun w => .skpVx (fieldX w)) ∧
  Selects 0xF00F#16 0xE001#16 (fun w => .sknpVx (fieldX w)) ∧
  (∀ (s : State) (x : Reg),
    ((s.getV x).toNat ≤ 15 →
      Completes (fun p => p = .pc) s (exec (.skpVx x) s) (fun t =>
        t.pc = if s.keypad.getLsbD (s.getV x).toNat = true then s.pc + 2#16 else s.pc) ∧
      Completes (fun p => p = .pc) s (exec (.sknpVx x) s) fun t =>
        t.pc = if s.keypad.getLsbD (s.getV x).toNat = false then s.pc + 2#16 else s.pc) ∧
    (15 < (s.getV x).toNat →
      TakesFault 5#3 ((s.getV x).setWidth 16) s (exec (.skpVx x) s) ∧
      TakesFault 5#3 ((s.getV x).setWidth 16) s (exec (.sknpVx x) s))) ∧
  ∀ (s : State) (w : Word), s.Fetches w → (s.getV (fieldX w)).toNat ≤ 15 →
    (w &&& 0xF00F#16 = 0xE00E#16 →
      EndsWithPc (if s.keysIn.getLsbD (s.getV (fieldX w)).toNat = true then s.pc + 4#16 else s.pc + 2#16) s) ∧
    (w &&& 0xF00F#16 = 0xE001#16 →
      EndsWithPc (if s.keysIn.getLsbD (s.getV (fieldX w)).toNat = false then s.pc + 4#16 else s.pc + 2#16) s)

/-- `LD Vx,DT` (rule R117): the value read is the one before the cycle's tick (which rule R67 marks derived; the tick per cycle is
decision D15, log entry 21). -/
def Obligations.ReadDelayTimer : Prop :=
  Selects 0xF0FF#16 0xF007#16 (fun w => .ldVxDt (fieldX w)) ∧
  (∀ (s : State) (x : Reg),
    Completes (fun p => p = .v x) s (exec (.ldVxDt x) s) fun t => t.getV x = s.dt) ∧
  ∀ (s : State) (w : Word), s.Fetches w → w &&& 0xF0FF#16 = 0xF007#16 →
    ∃ u, step s = .next u ∧ u.getV (fieldX w) = s.dt ∧ u.dt.toNat = s.dt.toNat - 1

/-- `LD Vx,K` (rule R118): it enters the wait, and its own cycle is an ordinary one that advances `pc` and ticks (which the spec
marks derived; the tick per cycle is decision D15, log entry 21). -/
def Obligations.WaitForKeyBeginsTheWait : Prop :=
  Selects 0xF0FF#16 0xF00A#16 (fun w => .ldVxK (fieldX w)) ∧
  (∀ (s : State) (x : Reg),
    Completes (fun p => p = .waiting ∨ p = .waitReg) s (exec (.ldVxK x) s) fun t => t.waiting = true ∧ t.waitReg = x) ∧
  ∀ (s : State) (w : Word), s.Fetches w → w &&& 0xF0FF#16 = 0xF00A#16 →
    Completes (fun p => p = .waiting ∨ p = .waitReg ∨ p = .pc ∨ p = .dt ∨ p = .st ∨ p = .keypad ∨ p = .redrawFlag ∨
        p = .outputs ∨ p = .inputs) s (step s) fun u =>
      u.waiting = true ∧ u.waitReg = fieldX w ∧ u.pc = s.pc + 2#16 ∧
      u.dt.toNat = s.dt.toNat - 1 ∧ u.st.toNat = s.st.toNat - 1

/-- `LD DT,Vx` and `LD ST,Vx` (rules R119, R120): the plain write, and at the end of the cycle the tick has followed it (which the
spec marks derived; the tick per cycle is decision D15, log entry 21). -/
def Obligations.LoadTimersThenTick : Prop :=
  Selects 0xF0FF#16 0xF015#16 (fun w => .ldDtVx (fieldX w)) ∧
  Selects 0xF0FF#16 0xF018#16 (fun w => .ldStVx (fieldX w)) ∧
  (∀ (s : State) (x : Reg),
    Completes (fun p => p = .dt) s (exec (.ldDtVx x) s) (fun t => t.dt = s.getV x) ∧
    Completes (fun p => p = .st) s (exec (.ldStVx x) s) fun t => t.st = s.getV x) ∧
  ∀ (s : State) (w : Word), s.Fetches w →
    (w &&& 0xF0FF#16 = 0xF015#16 → ∃ u, step s = .next u ∧ u.dt.toNat = (s.getV (fieldX w)).toNat - 1) ∧
    (w &&& 0xF0FF#16 = 0xF018#16 → ∃ u, step s = .next u ∧ u.st.toNat = (s.getV (fieldX w)).toNat - 1 ∧
      u.toneActive = decide (s.st ≠ 0#8))

/-! ### Sequences of instructions -/

/-- `CALL` then the matching `RET` round trip at the routine level: `pc` and `sp` come back to what they were before the `CALL`. -/
def Obligations.CallThenRetRoundTrip : Prop :=
  ∀ (s : State) (nnn : Addr) (v : Vector Byte 16) (a : Word), s.sp ≠ 15#4 →
    ∃ t u, exec (.callAddr nnn) s = .next t ∧ exec .ret ((t.setRegs v).setI a) = .next u ∧ u.pc = s.pc ∧ u.sp = s.sp

/-- Storing `V[0]` to `V[x]` at `I` and reading them back from the same address, after the registers were changed at will,
reproduces the original values (rule R106's round trip), wherever all addresses exist (decision D5; log entry 7). -/
def Obligations.StoreThenLoadRegistersRoundTrip : Prop :=
  ∀ (s : State) (x : Reg) (v : Vector Byte 16), s.mem.wf = true → s.InRange (x.toNat + 1) →
    ∃ t u, exec (.ldMemVx x) s = .next t ∧ exec (.ldVxMem x) (t.setRegs v) = .next u ∧
      ∀ r : Reg, r.toNat ≤ x.toNat → u.getV r = s.getV r

/-- Drawing the same sprite twice at the same place restores the display, under the linear index (decision D16; log entry 9) and for a
sprite that lies in memory (decision D5; log entry 7); with `VF` as a coordinate the second place may differ (decision D12). -/
def Obligations.DrawingTwiceRestoresTheDisplay : Prop :=
  ∀ (s : State) (x y : Reg) (n : Nat), x ≠ flagReg → y ≠ flagReg → n < 16 → s.InRange n →
    ∃ t u, exec (.drwVxVyN x y n) s = .next t ∧ exec (.drwVxVyN x y n) t = .next u ∧ ∀ q, u.pixel q = s.pixel q

/-- A store is seen by the very next fetch (rule R40, which the spec marks derived), for every word of `LD [I],Vx` and of `LD B,Vx` whose
store stays inside memory (decision D5; log entry 7) and at every `I`, the instruction stream and the instruction itself included:
after the cycle every byte reads as stored, and the next cycle fetches the word made of those bytes at the new `pc`. -/
def Obligations.StoreIsSeenByTheNextFetch : Prop :=
  ∀ (s : State) (w : Word), s.Fetches w → s.mem.wf = true →
    (w &&& 0xF0FF#16 = 0xF055#16 → s.InRange ((fieldX w).toNat + 1) →
      NextFetchSeesStore s ((List.range ((fieldX w).toNat + 1)).map fun k => s.getV (BitVec.ofNat 4 k))) ∧
    (w &&& 0xF0FF#16 = 0xF033#16 → s.InRange 3 →
      NextFetchSeesStore s [BitVec.ofNat 8 ((s.getV (fieldX w)).toNat / 100),
        BitVec.ofNat 8 ((s.getV (fieldX w)).toNat / 10 % 10), BitVec.ofNat 8 ((s.getV (fieldX w)).toNat % 10)])
end

