-- ==== Sys2Proof/Laws/State.lean ====
section
/-! SUPPORT. What each named update of the state does to each of its fields, true by definition. -/

namespace Sys2Proof.Machine

variable (s : State)

/-! ### `State.setMem` -/

@[simp] theorem setMem_v (m : Memory) : (s.setMem m).v = s.v := rfl
@[simp] theorem setMem_regI (m : Memory) : (s.setMem m).regI = s.regI := rfl
@[simp] theorem setMem_pc (m : Memory) : (s.setMem m).pc = s.pc := rfl
@[simp] theorem setMem_stack (m : Memory) : (s.setMem m).stack = s.stack := rfl
@[simp] theorem setMem_sp (m : Memory) : (s.setMem m).sp = s.sp := rfl
@[simp] theorem setMem_display (m : Memory) : (s.setMem m).display = s.display := rfl
@[simp] theorem setMem_dt (m : Memory) : (s.setMem m).dt = s.dt := rfl
@[simp] theorem setMem_st (m : Memory) : (s.setMem m).st = s.st := rfl
@[simp] theorem setMem_keypad (m : Memory) : (s.setMem m).keypad = s.keypad := rfl
@[simp] theorem setMem_waiting (m : Memory) : (s.setMem m).waiting = s.waiting := rfl
@[simp] theorem setMem_waitReg (m : Memory) : (s.setMem m).waitReg = s.waitReg := rfl
@[simp] theorem setMem_redrawFlag (m : Memory) : (s.setMem m).redrawFlag = s.redrawFlag := rfl
@[simp] theorem setMem_faultCode (m : Memory) : (s.setMem m).faultCode = s.faultCode := rfl
@[simp] theorem setMem_faultPc (m : Memory) : (s.setMem m).faultPc = s.faultPc := rfl
@[simp] theorem setMem_faultInfo (m : Memory) : (s.setMem m).faultInfo = s.faultInfo := rfl
@[simp] theorem setMem_mem (m : Memory) : (s.setMem m).mem = m := rfl
@[simp] theorem setMem_redrawNeeded (m : Memory) : (s.setMem m).redrawNeeded = s.redrawNeeded := rfl
@[simp] theorem setMem_toneActive (m : Memory) : (s.setMem m).toneActive = s.toneActive := rfl
@[simp] theorem setMem_inputs (m : Memory) : (s.setMem m).inputs = s.inputs := rfl
@[simp] theorem setMem_inputCount (m : Memory) : (s.setMem m).inputCount = s.inputCount := rfl

/-! ### `State.setRegs` -/

@[simp] theorem setRegs_v (u : Vector Byte 16) : (s.setRegs u).v = u := rfl
@[simp] theorem setRegs_regI (u : Vector Byte 16) : (s.setRegs u).regI = s.regI := rfl
@[simp] theorem setRegs_pc (u : Vector Byte 16) : (s.setRegs u).pc = s.pc := rfl
@[simp] theorem setRegs_stack (u : Vector Byte 16) : (s.setRegs u).stack = s.stack := rfl
@[simp] theorem setRegs_sp (u : Vector Byte 16) : (s.setRegs u).sp = s.sp := rfl
@[simp] theorem setRegs_display (u : Vector Byte 16) : (s.setRegs u).display = s.display := rfl
@[simp] theorem setRegs_dt (u : Vector Byte 16) : (s.setRegs u).dt = s.dt := rfl
@[simp] theorem setRegs_st (u : Vector Byte 16) : (s.setRegs u).st = s.st := rfl
@[simp] theorem setRegs_keypad (u : Vector Byte 16) : (s.setRegs u).keypad = s.keypad := rfl
@[simp] theorem setRegs_waiting (u : Vector Byte 16) : (s.setRegs u).waiting = s.waiting := rfl
@[simp] theorem setRegs_waitReg (u : Vector Byte 16) : (s.setRegs u).waitReg = s.waitReg := rfl
@[simp] theorem setRegs_redrawFlag (u : Vector Byte 16) : (s.setRegs u).redrawFlag = s.redrawFlag := rfl
@[simp] theorem setRegs_faultCode (u : Vector Byte 16) : (s.setRegs u).faultCode = s.faultCode := rfl
@[simp] theorem setRegs_faultPc (u : Vector Byte 16) : (s.setRegs u).faultPc = s.faultPc := rfl
@[simp] theorem setRegs_faultInfo (u : Vector Byte 16) : (s.setRegs u).faultInfo = s.faultInfo := rfl
@[simp] theorem setRegs_mem (u : Vector Byte 16) : (s.setRegs u).mem = s.mem := rfl
@[simp] theorem setRegs_redrawNeeded (u : Vector Byte 16) : (s.setRegs u).redrawNeeded = s.redrawNeeded := rfl
@[simp] theorem setRegs_toneActive (u : Vector Byte 16) : (s.setRegs u).toneActive = s.toneActive := rfl
@[simp] theorem setRegs_inputs (u : Vector Byte 16) : (s.setRegs u).inputs = s.inputs := rfl
@[simp] theorem setRegs_inputCount (u : Vector Byte 16) : (s.setRegs u).inputCount = s.inputCount := rfl

/-! ### `State.setI` -/

@[simp] theorem setI_v (w : Word) : (s.setI w).v = s.v := rfl
@[simp] theorem setI_regI (w : Word) : (s.setI w).regI = w := rfl
@[simp] theorem setI_pc (w : Word) : (s.setI w).pc = s.pc := rfl
@[simp] theorem setI_stack (w : Word) : (s.setI w).stack = s.stack := rfl
@[simp] theorem setI_sp (w : Word) : (s.setI w).sp = s.sp := rfl
@[simp] theorem setI_display (w : Word) : (s.setI w).display = s.display := rfl
@[simp] theorem setI_dt (w : Word) : (s.setI w).dt = s.dt := rfl
@[simp] theorem setI_st (w : Word) : (s.setI w).st = s.st := rfl
@[simp] theorem setI_keypad (w : Word) : (s.setI w).keypad = s.keypad := rfl
@[simp] theorem setI_waiting (w : Word) : (s.setI w).waiting = s.waiting := rfl
@[simp] theorem setI_waitReg (w : Word) : (s.setI w).waitReg = s.waitReg := rfl
@[simp] theorem setI_redrawFlag (w : Word) : (s.setI w).redrawFlag = s.redrawFlag := rfl
@[simp] theorem setI_faultCode (w : Word) : (s.setI w).faultCode = s.faultCode := rfl
@[simp] theorem setI_faultPc (w : Word) : (s.setI w).faultPc = s.faultPc := rfl
@[simp] theorem setI_faultInfo (w : Word) : (s.setI w).faultInfo = s.faultInfo := rfl
@[simp] theorem setI_mem (w : Word) : (s.setI w).mem = s.mem := rfl
@[simp] theorem setI_redrawNeeded (w : Word) : (s.setI w).redrawNeeded = s.redrawNeeded := rfl
@[simp] theorem setI_toneActive (w : Word) : (s.setI w).toneActive = s.toneActive := rfl
@[simp] theorem setI_inputs (w : Word) : (s.setI w).inputs = s.inputs := rfl
@[simp] theorem setI_inputCount (w : Word) : (s.setI w).inputCount = s.inputCount := rfl

/-! ### `State.setPc` -/

@[simp] theorem setPc_v (w : Word) : (s.setPc w).v = s.v := rfl
@[simp] theorem setPc_regI (w : Word) : (s.setPc w).regI = s.regI := rfl
@[simp] theorem setPc_pc (w : Word) : (s.setPc w).pc = w := rfl
@[simp] theorem setPc_stack (w : Word) : (s.setPc w).stack = s.stack := rfl
@[simp] theorem setPc_sp (w : Word) : (s.setPc w).sp = s.sp := rfl
@[simp] theorem setPc_display (w : Word) : (s.setPc w).display = s.display := rfl
@[simp] theorem setPc_dt (w : Word) : (s.setPc w).dt = s.dt := rfl
@[simp] theorem setPc_st (w : Word) : (s.setPc w).st = s.st := rfl
@[simp] theorem setPc_keypad (w : Word) : (s.setPc w).keypad = s.keypad := rfl
@[simp] theorem setPc_waiting (w : Word) : (s.setPc w).waiting = s.waiting := rfl
@[simp] theorem setPc_waitReg (w : Word) : (s.setPc w).waitReg = s.waitReg := rfl
@[simp] theorem setPc_redrawFlag (w : Word) : (s.setPc w).redrawFlag = s.redrawFlag := rfl
@[simp] theorem setPc_faultCode (w : Word) : (s.setPc w).faultCode = s.faultCode := rfl
@[simp] theorem setPc_faultPc (w : Word) : (s.setPc w).faultPc = s.faultPc := rfl
@[simp] theorem setPc_faultInfo (w : Word) : (s.setPc w).faultInfo = s.faultInfo := rfl
@[simp] theorem setPc_mem (w : Word) : (s.setPc w).mem = s.mem := rfl
@[simp] theorem setPc_redrawNeeded (w : Word) : (s.setPc w).redrawNeeded = s.redrawNeeded := rfl
@[simp] theorem setPc_toneActive (w : Word) : (s.setPc w).toneActive = s.toneActive := rfl
@[simp] theorem setPc_inputs (w : Word) : (s.setPc w).inputs = s.inputs := rfl
@[simp] theorem setPc_inputCount (w : Word) : (s.setPc w).inputCount = s.inputCount := rfl

/-! ### `State.setDt` -/

@[simp] theorem setDt_v (b : Byte) : (s.setDt b).v = s.v := rfl
@[simp] theorem setDt_regI (b : Byte) : (s.setDt b).regI = s.regI := rfl
@[simp] theorem setDt_pc (b : Byte) : (s.setDt b).pc = s.pc := rfl
@[simp] theorem setDt_stack (b : Byte) : (s.setDt b).stack = s.stack := rfl
@[simp] theorem setDt_sp (b : Byte) : (s.setDt b).sp = s.sp := rfl
@[simp] theorem setDt_display (b : Byte) : (s.setDt b).display = s.display := rfl
@[simp] theorem setDt_dt (b : Byte) : (s.setDt b).dt = b := rfl
@[simp] theorem setDt_st (b : Byte) : (s.setDt b).st = s.st := rfl
@[simp] theorem setDt_keypad (b : Byte) : (s.setDt b).keypad = s.keypad := rfl
@[simp] theorem setDt_waiting (b : Byte) : (s.setDt b).waiting = s.waiting := rfl
@[simp] theorem setDt_waitReg (b : Byte) : (s.setDt b).waitReg = s.waitReg := rfl
@[simp] theorem setDt_redrawFlag (b : Byte) : (s.setDt b).redrawFlag = s.redrawFlag := rfl
@[simp] theorem setDt_faultCode (b : Byte) : (s.setDt b).faultCode = s.faultCode := rfl
@[simp] theorem setDt_faultPc (b : Byte) : (s.setDt b).faultPc = s.faultPc := rfl
@[simp] theorem setDt_faultInfo (b : Byte) : (s.setDt b).faultInfo = s.faultInfo := rfl
@[simp] theorem setDt_mem (b : Byte) : (s.setDt b).mem = s.mem := rfl
@[simp] theorem setDt_redrawNeeded (b : Byte) : (s.setDt b).redrawNeeded = s.redrawNeeded := rfl
@[simp] theorem setDt_toneActive (b : Byte) : (s.setDt b).toneActive = s.toneActive := rfl
@[simp] theorem setDt_inputs (b : Byte) : (s.setDt b).inputs = s.inputs := rfl
@[simp] theorem setDt_inputCount (b : Byte) : (s.setDt b).inputCount = s.inputCount := rfl

/-! ### `State.setSt` -/

@[simp] theorem setSt_v (b : Byte) : (s.setSt b).v = s.v := rfl
@[simp] theorem setSt_regI (b : Byte) : (s.setSt b).regI = s.regI := rfl
@[simp] theorem setSt_pc (b : Byte) : (s.setSt b).pc = s.pc := rfl
@[simp] theorem setSt_stack (b : Byte) : (s.setSt b).stack = s.stack := rfl
@[simp] theorem setSt_sp (b : Byte) : (s.setSt b).sp = s.sp := rfl
@[simp] theorem setSt_display (b : Byte) : (s.setSt b).display = s.display := rfl
@[simp] theorem setSt_dt (b : Byte) : (s.setSt b).dt = s.dt := rfl
@[simp] theorem setSt_st (b : Byte) : (s.setSt b).st = b := rfl
@[simp] theorem setSt_keypad (b : Byte) : (s.setSt b).keypad = s.keypad := rfl
@[simp] theorem setSt_waiting (b : Byte) : (s.setSt b).waiting = s.waiting := rfl
@[simp] theorem setSt_waitReg (b : Byte) : (s.setSt b).waitReg = s.waitReg := rfl
@[simp] theorem setSt_redrawFlag (b : Byte) : (s.setSt b).redrawFlag = s.redrawFlag := rfl
@[simp] theorem setSt_faultCode (b : Byte) : (s.setSt b).faultCode = s.faultCode := rfl
@[simp] theorem setSt_faultPc (b : Byte) : (s.setSt b).faultPc = s.faultPc := rfl
@[simp] theorem setSt_faultInfo (b : Byte) : (s.setSt b).faultInfo = s.faultInfo := rfl
@[simp] theorem setSt_mem (b : Byte) : (s.setSt b).mem = s.mem := rfl
@[simp] theorem setSt_redrawNeeded (b : Byte) : (s.setSt b).redrawNeeded = s.redrawNeeded := rfl
@[simp] theorem setSt_toneActive (b : Byte) : (s.setSt b).toneActive = s.toneActive := rfl
@[simp] theorem setSt_inputs (b : Byte) : (s.setSt b).inputs = s.inputs := rfl
@[simp] theorem setSt_inputCount (b : Byte) : (s.setSt b).inputCount = s.inputCount := rfl

/-! ### `State.setSp` -/

@[simp] theorem setSp_v (k : BitVec 4) : (s.setSp k).v = s.v := rfl
@[simp] theorem setSp_regI (k : BitVec 4) : (s.setSp k).regI = s.regI := rfl
@[simp] theorem setSp_pc (k : BitVec 4) : (s.setSp k).pc = s.pc := rfl
@[simp] theorem setSp_stack (k : BitVec 4) : (s.setSp k).stack = s.stack := rfl
@[simp] theorem setSp_sp (k : BitVec 4) : (s.setSp k).sp = k := rfl
@[simp] theorem setSp_display (k : BitVec 4) : (s.setSp k).display = s.display := rfl
@[simp] theorem setSp_dt (k : BitVec 4) : (s.setSp k).dt = s.dt := rfl
@[simp] theorem setSp_st (k : BitVec 4) : (s.setSp k).st = s.st := rfl
@[simp] theorem setSp_keypad (k : BitVec 4) : (s.setSp k).keypad = s.keypad := rfl
@[simp] theorem setSp_waiting (k : BitVec 4) : (s.setSp k).waiting = s.waiting := rfl
@[simp] theorem setSp_waitReg (k : BitVec 4) : (s.setSp k).waitReg = s.waitReg := rfl
@[simp] theorem setSp_redrawFlag (k : BitVec 4) : (s.setSp k).redrawFlag = s.redrawFlag := rfl
@[simp] theorem setSp_faultCode (k : BitVec 4) : (s.setSp k).faultCode = s.faultCode := rfl
@[simp] theorem setSp_faultPc (k : BitVec 4) : (s.setSp k).faultPc = s.faultPc := rfl
@[simp] theorem setSp_faultInfo (k : BitVec 4) : (s.setSp k).faultInfo = s.faultInfo := rfl
@[simp] theorem setSp_mem (k : BitVec 4) : (s.setSp k).mem = s.mem := rfl
@[simp] theorem setSp_redrawNeeded (k : BitVec 4) : (s.setSp k).redrawNeeded = s.redrawNeeded := rfl
@[simp] theorem setSp_toneActive (k : BitVec 4) : (s.setSp k).toneActive = s.toneActive := rfl
@[simp] theorem setSp_inputs (k : BitVec 4) : (s.setSp k).inputs = s.inputs := rfl
@[simp] theorem setSp_inputCount (k : BitVec 4) : (s.setSp k).inputCount = s.inputCount := rfl

/-! ### `State.setStack` -/

@[simp] theorem setStack_v (u : Vector Word 16) : (s.setStack u).v = s.v := rfl
@[simp] theorem setStack_regI (u : Vector Word 16) : (s.setStack u).regI = s.regI := rfl
@[simp] theorem setStack_pc (u : Vector Word 16) : (s.setStack u).pc = s.pc := rfl
@[simp] theorem setStack_stack (u : Vector Word 16) : (s.setStack u).stack = u := rfl
@[simp] theorem setStack_sp (u : Vector Word 16) : (s.setStack u).sp = s.sp := rfl
@[simp] theorem setStack_display (u : Vector Word 16) : (s.setStack u).display = s.display := rfl
@[simp] theorem setStack_dt (u : Vector Word 16) : (s.setStack u).dt = s.dt := rfl
@[simp] theorem setStack_st (u : Vector Word 16) : (s.setStack u).st = s.st := rfl
@[simp] theorem setStack_keypad (u : Vector Word 16) : (s.setStack u).keypad = s.keypad := rfl
@[simp] theorem setStack_waiting (u : Vector Word 16) : (s.setStack u).waiting = s.waiting := rfl
@[simp] theorem setStack_waitReg (u : Vector Word 16) : (s.setStack u).waitReg = s.waitReg := rfl
@[simp] theorem setStack_redrawFlag (u : Vector Word 16) : (s.setStack u).redrawFlag = s.redrawFlag := rfl
@[simp] theorem setStack_faultCode (u : Vector Word 16) : (s.setStack u).faultCode = s.faultCode := rfl
@[simp] theorem setStack_faultPc (u : Vector Word 16) : (s.setStack u).faultPc = s.faultPc := rfl
@[simp] theorem setStack_faultInfo (u : Vector Word 16) : (s.setStack u).faultInfo = s.faultInfo := rfl
@[simp] theorem setStack_mem (u : Vector Word 16) : (s.setStack u).mem = s.mem := rfl
@[simp] theorem setStack_redrawNeeded (u : Vector Word 16) : (s.setStack u).redrawNeeded = s.redrawNeeded := rfl
@[simp] theorem setStack_toneActive (u : Vector Word 16) : (s.setStack u).toneActive = s.toneActive := rfl
@[simp] theorem setStack_inputs (u : Vector Word 16) : (s.setStack u).inputs = s.inputs := rfl
@[simp] theorem setStack_inputCount (u : Vector Word 16) : (s.setStack u).inputCount = s.inputCount := rfl

/-! ### `State.setKeypad` -/

@[simp] theorem setKeypad_v (keys : BitVec 16) : (s.setKeypad keys).v = s.v := rfl
@[simp] theorem setKeypad_regI (keys : BitVec 16) : (s.setKeypad keys).regI = s.regI := rfl
@[simp] theorem setKeypad_pc (keys : BitVec 16) : (s.setKeypad keys).pc = s.pc := rfl
@[simp] theorem setKeypad_stack (keys : BitVec 16) : (s.setKeypad keys).stack = s.stack := rfl
@[simp] theorem setKeypad_sp (keys : BitVec 16) : (s.setKeypad keys).sp = s.sp := rfl
@[simp] theorem setKeypad_display (keys : BitVec 16) : (s.setKeypad keys).display = s.display := rfl
@[simp] theorem setKeypad_dt (keys : BitVec 16) : (s.setKeypad keys).dt = s.dt := rfl
@[simp] theorem setKeypad_st (keys : BitVec 16) : (s.setKeypad keys).st = s.st := rfl
@[simp] theorem setKeypad_keypad (keys : BitVec 16) : (s.setKeypad keys).keypad = keys := rfl
@[simp] theorem setKeypad_waiting (keys : BitVec 16) : (s.setKeypad keys).waiting = s.waiting := rfl
@[simp] theorem setKeypad_waitReg (keys : BitVec 16) : (s.setKeypad keys).waitReg = s.waitReg := rfl
@[simp] theorem setKeypad_redrawFlag (keys : BitVec 16) : (s.setKeypad keys).redrawFlag = s.redrawFlag := rfl
@[simp] theorem setKeypad_faultCode (keys : BitVec 16) : (s.setKeypad keys).faultCode = s.faultCode := rfl
@[simp] theorem setKeypad_faultPc (keys : BitVec 16) : (s.setKeypad keys).faultPc = s.faultPc := rfl
@[simp] theorem setKeypad_faultInfo (keys : BitVec 16) : (s.setKeypad keys).faultInfo = s.faultInfo := rfl
@[simp] theorem setKeypad_mem (keys : BitVec 16) : (s.setKeypad keys).mem = s.mem := rfl
@[simp] theorem setKeypad_redrawNeeded (keys : BitVec 16) : (s.setKeypad keys).redrawNeeded = s.redrawNeeded := rfl
@[simp] theorem setKeypad_toneActive (keys : BitVec 16) : (s.setKeypad keys).toneActive = s.toneActive := rfl
@[simp] theorem setKeypad_inputs (keys : BitVec 16) : (s.setKeypad keys).inputs = s.inputs := rfl
@[simp] theorem setKeypad_inputCount (keys : BitVec 16) : (s.setKeypad keys).inputCount = s.inputCount := rfl

/-! ### `State.setDisplay` -/

@[simp] theorem setDisplay_v (d : Display) : (s.setDisplay d).v = s.v := rfl
@[simp] theorem setDisplay_regI (d : Display) : (s.setDisplay d).regI = s.regI := rfl
@[simp] theorem setDisplay_pc (d : Display) : (s.setDisplay d).pc = s.pc := rfl
@[simp] theorem setDisplay_stack (d : Display) : (s.setDisplay d).stack = s.stack := rfl
@[simp] theorem setDisplay_sp (d : Display) : (s.setDisplay d).sp = s.sp := rfl
@[simp] theorem setDisplay_display (d : Display) : (s.setDisplay d).display = d := rfl
@[simp] theorem setDisplay_dt (d : Display) : (s.setDisplay d).dt = s.dt := rfl
@[simp] theorem setDisplay_st (d : Display) : (s.setDisplay d).st = s.st := rfl
@[simp] theorem setDisplay_keypad (d : Display) : (s.setDisplay d).keypad = s.keypad := rfl
@[simp] theorem setDisplay_waiting (d : Display) : (s.setDisplay d).waiting = s.waiting := rfl
@[simp] theorem setDisplay_waitReg (d : Display) : (s.setDisplay d).waitReg = s.waitReg := rfl
@[simp] theorem setDisplay_redrawFlag (d : Display) : (s.setDisplay d).redrawFlag = true := rfl
@[simp] theorem setDisplay_faultCode (d : Display) : (s.setDisplay d).faultCode = s.faultCode := rfl
@[simp] theorem setDisplay_faultPc (d : Display) : (s.setDisplay d).faultPc = s.faultPc := rfl
@[simp] theorem setDisplay_faultInfo (d : Display) : (s.setDisplay d).faultInfo = s.faultInfo := rfl
@[simp] theorem setDisplay_mem (d : Display) : (s.setDisplay d).mem = s.mem := rfl
@[simp] theorem setDisplay_redrawNeeded (d : Display) : (s.setDisplay d).redrawNeeded = s.redrawNeeded := rfl
@[simp] theorem setDisplay_toneActive (d : Display) : (s.setDisplay d).toneActive = s.toneActive := rfl
@[simp] theorem setDisplay_inputs (d : Display) : (s.setDisplay d).inputs = s.inputs := rfl
@[simp] theorem setDisplay_inputCount (d : Display) : (s.setDisplay d).inputCount = s.inputCount := rfl

/-! ### `State.setWait` -/

@[simp] theorem setWait_v (x : Reg) : (s.setWait x).v = s.v := rfl
@[simp] theorem setWait_regI (x : Reg) : (s.setWait x).regI = s.regI := rfl
@[simp] theorem setWait_pc (x : Reg) : (s.setWait x).pc = s.pc := rfl
@[simp] theorem setWait_stack (x : Reg) : (s.setWait x).stack = s.stack := rfl
@[simp] theorem setWait_sp (x : Reg) : (s.setWait x).sp = s.sp := rfl
@[simp] theorem setWait_display (x : Reg) : (s.setWait x).display = s.display := rfl
@[simp] theorem setWait_dt (x : Reg) : (s.setWait x).dt = s.dt := rfl
@[simp] theorem setWait_st (x : Reg) : (s.setWait x).st = s.st := rfl
@[simp] theorem setWait_keypad (x : Reg) : (s.setWait x).keypad = s.keypad := rfl
@[simp] theorem setWait_waiting (x : Reg) : (s.setWait x).waiting = true := rfl
@[simp] theorem setWait_waitReg (x : Reg) : (s.setWait x).waitReg = x := rfl
@[simp] theorem setWait_redrawFlag (x : Reg) : (s.setWait x).redrawFlag = s.redrawFlag := rfl
@[simp] theorem setWait_faultCode (x : Reg) : (s.setWait x).faultCode = s.faultCode := rfl
@[simp] theorem setWait_faultPc (x : Reg) : (s.setWait x).faultPc = s.faultPc := rfl
@[simp] theorem setWait_faultInfo (x : Reg) : (s.setWait x).faultInfo = s.faultInfo := rfl
@[simp] theorem setWait_mem (x : Reg) : (s.setWait x).mem = s.mem := rfl
@[simp] theorem setWait_redrawNeeded (x : Reg) : (s.setWait x).redrawNeeded = s.redrawNeeded := rfl
@[simp] theorem setWait_toneActive (x : Reg) : (s.setWait x).toneActive = s.toneActive := rfl
@[simp] theorem setWait_inputs (x : Reg) : (s.setWait x).inputs = s.inputs := rfl
@[simp] theorem setWait_inputCount (x : Reg) : (s.setWait x).inputCount = s.inputCount := rfl

/-! ### `State.clearWait` -/

@[simp] theorem clearWait_v : (s.clearWait).v = s.v := rfl
@[simp] theorem clearWait_regI : (s.clearWait).regI = s.regI := rfl
@[simp] theorem clearWait_pc : (s.clearWait).pc = s.pc := rfl
@[simp] theorem clearWait_stack : (s.clearWait).stack = s.stack := rfl
@[simp] theorem clearWait_sp : (s.clearWait).sp = s.sp := rfl
@[simp] theorem clearWait_display : (s.clearWait).display = s.display := rfl
@[simp] theorem clearWait_dt : (s.clearWait).dt = s.dt := rfl
@[simp] theorem clearWait_st : (s.clearWait).st = s.st := rfl
@[simp] theorem clearWait_keypad : (s.clearWait).keypad = s.keypad := rfl
@[simp] theorem clearWait_waiting : (s.clearWait).waiting = false := rfl
@[simp] theorem clearWait_waitReg : (s.clearWait).waitReg = s.waitReg := rfl
@[simp] theorem clearWait_redrawFlag : (s.clearWait).redrawFlag = s.redrawFlag := rfl
@[simp] theorem clearWait_faultCode : (s.clearWait).faultCode = s.faultCode := rfl
@[simp] theorem clearWait_faultPc : (s.clearWait).faultPc = s.faultPc := rfl
@[simp] theorem clearWait_faultInfo : (s.clearWait).faultInfo = s.faultInfo := rfl
@[simp] theorem clearWait_mem : (s.clearWait).mem = s.mem := rfl
@[simp] theorem clearWait_redrawNeeded : (s.clearWait).redrawNeeded = s.redrawNeeded := rfl
@[simp] theorem clearWait_toneActive : (s.clearWait).toneActive = s.toneActive := rfl
@[simp] theorem clearWait_inputs : (s.clearWait).inputs = s.inputs := rfl
@[simp] theorem clearWait_inputCount : (s.clearWait).inputCount = s.inputCount := rfl

/-! ### `State.setOutputs` -/

@[simp] theorem setOutputs_v (redraw tone : Bool) : (s.setOutputs redraw tone).v = s.v := rfl
@[simp] theorem setOutputs_regI (redraw tone : Bool) : (s.setOutputs redraw tone).regI = s.regI := rfl
@[simp] theorem setOutputs_pc (redraw tone : Bool) : (s.setOutputs redraw tone).pc = s.pc := rfl
@[simp] theorem setOutputs_stack (redraw tone : Bool) : (s.setOutputs redraw tone).stack = s.stack := rfl
@[simp] theorem setOutputs_sp (redraw tone : Bool) : (s.setOutputs redraw tone).sp = s.sp := rfl
@[simp] theorem setOutputs_display (redraw tone : Bool) : (s.setOutputs redraw tone).display = s.display := rfl
@[simp] theorem setOutputs_dt (redraw tone : Bool) : (s.setOutputs redraw tone).dt = s.dt := rfl
@[simp] theorem setOutputs_st (redraw tone : Bool) : (s.setOutputs redraw tone).st = s.st := rfl
@[simp] theorem setOutputs_keypad (redraw tone : Bool) : (s.setOutputs redraw tone).keypad = s.keypad := rfl
@[simp] theorem setOutputs_waiting (redraw tone : Bool) : (s.setOutputs redraw tone).waiting = s.waiting := rfl
@[simp] theorem setOutputs_waitReg (redraw tone : Bool) : (s.setOutputs redraw tone).waitReg = s.waitReg := rfl
@[simp] theorem setOutputs_redrawFlag (redraw tone : Bool) : (s.setOutputs redraw tone).redrawFlag = s.redrawFlag := rfl
@[simp] theorem setOutputs_faultCode (redraw tone : Bool) : (s.setOutputs redraw tone).faultCode = s.faultCode := rfl
@[simp] theorem setOutputs_faultPc (redraw tone : Bool) : (s.setOutputs redraw tone).faultPc = s.faultPc := rfl
@[simp] theorem setOutputs_faultInfo (redraw tone : Bool) : (s.setOutputs redraw tone).faultInfo = s.faultInfo := rfl
@[simp] theorem setOutputs_mem (redraw tone : Bool) : (s.setOutputs redraw tone).mem = s.mem := rfl
@[simp] theorem setOutputs_redrawNeeded (redraw tone : Bool) : (s.setOutputs redraw tone).redrawNeeded = redraw := rfl
@[simp] theorem setOutputs_toneActive (redraw tone : Bool) : (s.setOutputs redraw tone).toneActive = tone := rfl
@[simp] theorem setOutputs_inputs (redraw tone : Bool) : (s.setOutputs redraw tone).inputs = s.inputs := rfl
@[simp] theorem setOutputs_inputCount (redraw tone : Bool) : (s.setOutputs redraw tone).inputCount = s.inputCount := rfl

/-! ### `State.clearRedraw` -/

@[simp] theorem clearRedraw_v : (s.clearRedraw).v = s.v := rfl
@[simp] theorem clearRedraw_regI : (s.clearRedraw).regI = s.regI := rfl
@[simp] theorem clearRedraw_pc : (s.clearRedraw).pc = s.pc := rfl
@[simp] theorem clearRedraw_stack : (s.clearRedraw).stack = s.stack := rfl
@[simp] theorem clearRedraw_sp : (s.clearRedraw).sp = s.sp := rfl
@[simp] theorem clearRedraw_display : (s.clearRedraw).display = s.display := rfl
@[simp] theorem clearRedraw_dt : (s.clearRedraw).dt = s.dt := rfl
@[simp] theorem clearRedraw_st : (s.clearRedraw).st = s.st := rfl
@[simp] theorem clearRedraw_keypad : (s.clearRedraw).keypad = s.keypad := rfl
@[simp] theorem clearRedraw_waiting : (s.clearRedraw).waiting = s.waiting := rfl
@[simp] theorem clearRedraw_waitReg : (s.clearRedraw).waitReg = s.waitReg := rfl
@[simp] theorem clearRedraw_redrawFlag : (s.clearRedraw).redrawFlag = false := rfl
@[simp] theorem clearRedraw_faultCode : (s.clearRedraw).faultCode = s.faultCode := rfl
@[simp] theorem clearRedraw_faultPc : (s.clearRedraw).faultPc = s.faultPc := rfl
@[simp] theorem clearRedraw_faultInfo : (s.clearRedraw).faultInfo = s.faultInfo := rfl
@[simp] theorem clearRedraw_mem : (s.clearRedraw).mem = s.mem := rfl
@[simp] theorem clearRedraw_redrawNeeded : (s.clearRedraw).redrawNeeded = s.redrawNeeded := rfl
@[simp] theorem clearRedraw_toneActive : (s.clearRedraw).toneActive = s.toneActive := rfl
@[simp] theorem clearRedraw_inputs : (s.clearRedraw).inputs = s.inputs := rfl
@[simp] theorem clearRedraw_inputCount : (s.clearRedraw).inputCount = s.inputCount := rfl

/-! ### `State.setV` -/

@[simp] theorem setV_v (x : Reg) (b : Byte) : (s.setV x b).v = s.v.set x.toNat b x.isLt := rfl
@[simp] theorem setV_regI (x : Reg) (b : Byte) : (s.setV x b).regI = s.regI := rfl
@[simp] theorem setV_pc (x : Reg) (b : Byte) : (s.setV x b).pc = s.pc := rfl
@[simp] theorem setV_stack (x : Reg) (b : Byte) : (s.setV x b).stack = s.stack := rfl
@[simp] theorem setV_sp (x : Reg) (b : Byte) : (s.setV x b).sp = s.sp := rfl
@[simp] theorem setV_display (x : Reg) (b : Byte) : (s.setV x b).display = s.display := rfl
@[simp] theorem setV_dt (x : Reg) (b : Byte) : (s.setV x b).dt = s.dt := rfl
@[simp] theorem setV_st (x : Reg) (b : Byte) : (s.setV x b).st = s.st := rfl
@[simp] theorem setV_keypad (x : Reg) (b : Byte) : (s.setV x b).keypad = s.keypad := rfl
@[simp] theorem setV_waiting (x : Reg) (b : Byte) : (s.setV x b).waiting = s.waiting := rfl
@[simp] theorem setV_waitReg (x : Reg) (b : Byte) : (s.setV x b).waitReg = s.waitReg := rfl
@[simp] theorem setV_redrawFlag (x : Reg) (b : Byte) : (s.setV x b).redrawFlag = s.redrawFlag := rfl
@[simp] theorem setV_faultCode (x : Reg) (b : Byte) : (s.setV x b).faultCode = s.faultCode := rfl
@[simp] theorem setV_faultPc (x : Reg) (b : Byte) : (s.setV x b).faultPc = s.faultPc := rfl
@[simp] theorem setV_faultInfo (x : Reg) (b : Byte) : (s.setV x b).faultInfo = s.faultInfo := rfl
@[simp] theorem setV_mem (x : Reg) (b : Byte) : (s.setV x b).mem = s.mem := rfl
@[simp] theorem setV_redrawNeeded (x : Reg) (b : Byte) : (s.setV x b).redrawNeeded = s.redrawNeeded := rfl
@[simp] theorem setV_toneActive (x : Reg) (b : Byte) : (s.setV x b).toneActive = s.toneActive := rfl
@[simp] theorem setV_inputs (x : Reg) (b : Byte) : (s.setV x b).inputs = s.inputs := rfl
@[simp] theorem setV_inputCount (x : Reg) (b : Byte) : (s.setV x b).inputCount = s.inputCount := rfl

/-! ### `State.takeFault` -/

@[simp] theorem takeFault_v (f : Fault) : (s.takeFault f).v = s.v := rfl
@[simp] theorem takeFault_regI (f : Fault) : (s.takeFault f).regI = s.regI := rfl
@[simp] theorem takeFault_pc (f : Fault) : (s.takeFault f).pc = s.pc := rfl
@[simp] theorem takeFault_stack (f : Fault) : (s.takeFault f).stack = s.stack := rfl
@[simp] theorem takeFault_sp (f : Fault) : (s.takeFault f).sp = s.sp := rfl
@[simp] theorem takeFault_display (f : Fault) : (s.takeFault f).display = s.display := rfl
@[simp] theorem takeFault_dt (f : Fault) : (s.takeFault f).dt = s.dt := rfl
@[simp] theorem takeFault_st (f : Fault) : (s.takeFault f).st = s.st := rfl
@[simp] theorem takeFault_keypad (f : Fault) : (s.takeFault f).keypad = s.keypad := rfl
@[simp] theorem takeFault_waiting (f : Fault) : (s.takeFault f).waiting = s.waiting := rfl
@[simp] theorem takeFault_waitReg (f : Fault) : (s.takeFault f).waitReg = s.waitReg := rfl
@[simp] theorem takeFault_redrawFlag (f : Fault) : (s.takeFault f).redrawFlag = s.redrawFlag := rfl
@[simp] theorem takeFault_faultCode (f : Fault) : (s.takeFault f).faultCode = faultCodeOf f := rfl
@[simp] theorem takeFault_faultPc (f : Fault) : (s.takeFault f).faultPc = s.pc := rfl
@[simp] theorem takeFault_faultInfo (f : Fault) : (s.takeFault f).faultInfo = faultInfoOf f := rfl
@[simp] theorem takeFault_mem (f : Fault) : (s.takeFault f).mem = s.mem := rfl
@[simp] theorem takeFault_redrawNeeded (f : Fault) : (s.takeFault f).redrawNeeded = false := rfl
@[simp] theorem takeFault_toneActive (f : Fault) : (s.takeFault f).toneActive = false := rfl
@[simp] theorem takeFault_inputs (f : Fault) : (s.takeFault f).inputs = s.inputs := rfl
@[simp] theorem takeFault_inputCount (f : Fault) : (s.takeFault f).inputCount = s.inputCount := rfl

/-! ### `State.consumeInput` -/

@[simp] theorem consumeInput_v : (s.consumeInput).v = s.v := rfl
@[simp] theorem consumeInput_regI : (s.consumeInput).regI = s.regI := rfl
@[simp] theorem consumeInput_pc : (s.consumeInput).pc = s.pc := rfl
@[simp] theorem consumeInput_stack : (s.consumeInput).stack = s.stack := rfl
@[simp] theorem consumeInput_sp : (s.consumeInput).sp = s.sp := rfl
@[simp] theorem consumeInput_display : (s.consumeInput).display = s.display := rfl
@[simp] theorem consumeInput_dt : (s.consumeInput).dt = s.dt := rfl
@[simp] theorem consumeInput_st : (s.consumeInput).st = s.st := rfl
@[simp] theorem consumeInput_keypad : (s.consumeInput).keypad = s.keypad := rfl
@[simp] theorem consumeInput_waiting : (s.consumeInput).waiting = s.waiting := rfl
@[simp] theorem consumeInput_waitReg : (s.consumeInput).waitReg = s.waitReg := rfl
@[simp] theorem consumeInput_redrawFlag : (s.consumeInput).redrawFlag = s.redrawFlag := rfl
@[simp] theorem consumeInput_faultCode : (s.consumeInput).faultCode = s.faultCode := rfl
@[simp] theorem consumeInput_faultPc : (s.consumeInput).faultPc = s.faultPc := rfl
@[simp] theorem consumeInput_faultInfo : (s.consumeInput).faultInfo = s.faultInfo := rfl
@[simp] theorem consumeInput_mem : (s.consumeInput).mem = s.mem := rfl
@[simp] theorem consumeInput_redrawNeeded : (s.consumeInput).redrawNeeded = s.redrawNeeded := rfl
@[simp] theorem consumeInput_toneActive : (s.consumeInput).toneActive = s.toneActive := rfl
@[simp] theorem consumeInput_inputs : (s.consumeInput).inputs = s.inputs.tail := rfl
@[simp] theorem consumeInput_inputCount : (s.consumeInput).inputCount = s.inputCount + 1 := rfl

/-! ### The derived views -/

@[simp] theorem setMem_getV (m : Memory) (r : Reg) : (s.setMem m).getV r = s.getV r := rfl
@[simp] theorem setMem_pixel (m : Memory) (p : Pixel) : (s.setMem m).pixel p = s.pixel p := rfl
@[simp] theorem setMem_slot (m : Memory) (n : BitVec 4) : (s.setMem m).slot n = s.slot n := rfl
@[simp] theorem setMem_keyDown (m : Memory) (n : Nat) : (s.setMem m).keyDown n = s.keyDown n := rfl
@[simp] theorem setMem_rndIn (m : Memory) : (s.setMem m).rndIn = s.rndIn := rfl
@[simp] theorem setMem_keysIn (m : Memory) : (s.setMem m).keysIn = s.keysIn := rfl
@[simp] theorem setRegs_pixel (u : Vector Byte 16) (p : Pixel) : (s.setRegs u).pixel p = s.pixel p := rfl
@[simp] theorem setRegs_slot (u : Vector Byte 16) (n : BitVec 4) : (s.setRegs u).slot n = s.slot n := rfl
@[simp] theorem setRegs_readByte (u : Vector Byte 16) (a : Nat) : (s.setRegs u).readByte a = s.readByte a := rfl
@[simp] theorem setRegs_keyDown (u : Vector Byte 16) (n : Nat) : (s.setRegs u).keyDown n = s.keyDown n := rfl
@[simp] theorem setRegs_rndIn (u : Vector Byte 16) : (s.setRegs u).rndIn = s.rndIn := rfl
@[simp] theorem setRegs_keysIn (u : Vector Byte 16) : (s.setRegs u).keysIn = s.keysIn := rfl
@[simp] theorem setI_getV (w : Word) (r : Reg) : (s.setI w).getV r = s.getV r := rfl
@[simp] theorem setI_pixel (w : Word) (p : Pixel) : (s.setI w).pixel p = s.pixel p := rfl
@[simp] theorem setI_slot (w : Word) (n : BitVec 4) : (s.setI w).slot n = s.slot n := rfl
@[simp] theorem setI_readByte (w : Word) (a : Nat) : (s.setI w).readByte a = s.readByte a := rfl
@[simp] theorem setI_keyDown (w : Word) (n : Nat) : (s.setI w).keyDown n = s.keyDown n := rfl
@[simp] theorem setI_rndIn (w : Word) : (s.setI w).rndIn = s.rndIn := rfl
@[simp] theorem setI_keysIn (w : Word) : (s.setI w).keysIn = s.keysIn := rfl
@[simp] theorem setPc_getV (w : Word) (r : Reg) : (s.setPc w).getV r = s.getV r := rfl
@[simp] theorem setPc_pixel (w : Word) (p : Pixel) : (s.setPc w).pixel p = s.pixel p := rfl
@[simp] theorem setPc_slot (w : Word) (n : BitVec 4) : (s.setPc w).slot n = s.slot n := rfl
@[simp] theorem setPc_readByte (w : Word) (a : Nat) : (s.setPc w).readByte a = s.readByte a := rfl
@[simp] theorem setPc_keyDown (w : Word) (n : Nat) : (s.setPc w).keyDown n = s.keyDown n := rfl
@[simp] theorem setPc_rndIn (w : Word) : (s.setPc w).rndIn = s.rndIn := rfl
@[simp] theorem setPc_keysIn (w : Word) : (s.setPc w).keysIn = s.keysIn := rfl
@[simp] theorem setDt_getV (b : Byte) (r : Reg) : (s.setDt b).getV r = s.getV r := rfl
@[simp] theorem setDt_pixel (b : Byte) (p : Pixel) : (s.setDt b).pixel p = s.pixel p := rfl
@[simp] theorem setDt_slot (b : Byte) (n : BitVec 4) : (s.setDt b).slot n = s.slot n := rfl
@[simp] theorem setDt_readByte (b : Byte) (a : Nat) : (s.setDt b).readByte a = s.readByte a := rfl
@[simp] theorem setDt_keyDown (b : Byte) (n : Nat) : (s.setDt b).keyDown n = s.keyDown n := rfl
@[simp] theorem setDt_rndIn (b : Byte) : (s.setDt b).rndIn = s.rndIn := rfl
@[simp] theorem setDt_keysIn (b : Byte) : (s.setDt b).keysIn = s.keysIn := rfl
@[simp] theorem setSt_getV (b : Byte) (r : Reg) : (s.setSt b).getV r = s.getV r := rfl
@[simp] theorem setSt_pixel (b : Byte) (p : Pixel) : (s.setSt b).pixel p = s.pixel p := rfl
@[simp] theorem setSt_slot (b : Byte) (n : BitVec 4) : (s.setSt b).slot n = s.slot n := rfl
@[simp] theorem setSt_readByte (b : Byte) (a : Nat) : (s.setSt b).readByte a = s.readByte a := rfl
@[simp] theorem setSt_keyDown (b : Byte) (n : Nat) : (s.setSt b).keyDown n = s.keyDown n := rfl
@[simp] theorem setSt_rndIn (b : Byte) : (s.setSt b).rndIn = s.rndIn := rfl
@[simp] theorem setSt_keysIn (b : Byte) : (s.setSt b).keysIn = s.keysIn := rfl
@[simp] theorem setSp_getV (k : BitVec 4) (r : Reg) : (s.setSp k).getV r = s.getV r := rfl
@[simp] theorem setSp_pixel (k : BitVec 4) (p : Pixel) : (s.setSp k).pixel p = s.pixel p := rfl
@[simp] theorem setSp_slot (k : BitVec 4) (n : BitVec 4) : (s.setSp k).slot n = s.slot n := rfl
@[simp] theorem setSp_readByte (k : BitVec 4) (a : Nat) : (s.setSp k).readByte a = s.readByte a := rfl
@[simp] theorem setSp_keyDown (k : BitVec 4) (n : Nat) : (s.setSp k).keyDown n = s.keyDown n := rfl
@[simp] theorem setSp_rndIn (k : BitVec 4) : (s.setSp k).rndIn = s.rndIn := rfl
@[simp] theorem setSp_keysIn (k : BitVec 4) : (s.setSp k).keysIn = s.keysIn := rfl
@[simp] theorem setStack_getV (u : Vector Word 16) (r : Reg) : (s.setStack u).getV r = s.getV r := rfl
@[simp] theorem setStack_pixel (u : Vector Word 16) (p : Pixel) : (s.setStack u).pixel p = s.pixel p := rfl
@[simp] theorem setStack_readByte (u : Vector Word 16) (a : Nat) : (s.setStack u).readByte a = s.readByte a := rfl
@[simp] theorem setStack_keyDown (u : Vector Word 16) (n : Nat) : (s.setStack u).keyDown n = s.keyDown n := rfl
@[simp] theorem setStack_rndIn (u : Vector Word 16) : (s.setStack u).rndIn = s.rndIn := rfl
@[simp] theorem setStack_keysIn (u : Vector Word 16) : (s.setStack u).keysIn = s.keysIn := rfl
@[simp] theorem setKeypad_getV (keys : BitVec 16) (r : Reg) : (s.setKeypad keys).getV r = s.getV r := rfl
@[simp] theorem setKeypad_pixel (keys : BitVec 16) (p : Pixel) : (s.setKeypad keys).pixel p = s.pixel p := rfl
@[simp] theorem setKeypad_slot (keys : BitVec 16) (n : BitVec 4) : (s.setKeypad keys).slot n = s.slot n := rfl
@[simp] theorem setKeypad_readByte (keys : BitVec 16) (a : Nat) : (s.setKeypad keys).readByte a = s.readByte a := rfl
@[simp] theorem setKeypad_rndIn (keys : BitVec 16) : (s.setKeypad keys).rndIn = s.rndIn := rfl
@[simp] theorem setKeypad_keysIn (keys : BitVec 16) : (s.setKeypad keys).keysIn = s.keysIn := rfl
@[simp] theorem setDisplay_getV (d : Display) (r : Reg) : (s.setDisplay d).getV r = s.getV r := rfl
@[simp] theorem setDisplay_slot (d : Display) (n : BitVec 4) : (s.setDisplay d).slot n = s.slot n := rfl
@[simp] theorem setDisplay_readByte (d : Display) (a : Nat) : (s.setDisplay d).readByte a = s.readByte a := rfl
@[simp] theorem setDisplay_keyDown (d : Display) (n : Nat) : (s.setDisplay d).keyDown n = s.keyDown n := rfl
@[simp] theorem setDisplay_rndIn (d : Display) : (s.setDisplay d).rndIn = s.rndIn := rfl
@[simp] theorem setDisplay_keysIn (d : Display) : (s.setDisplay d).keysIn = s.keysIn := rfl
@[simp] theorem setWait_getV (x : Reg) (r : Reg) : (s.setWait x).getV r = s.getV r := rfl
@[simp] theorem setWait_pixel (x : Reg) (p : Pixel) : (s.setWait x).pixel p = s.pixel p := rfl
@[simp] theorem setWait_slot (x : Reg) (n : BitVec 4) : (s.setWait x).slot n = s.slot n := rfl
@[simp] theorem setWait_readByte (x : Reg) (a : Nat) : (s.setWait x).readByte a = s.readByte a := rfl
@[simp] theorem setWait_keyDown (x : Reg) (n : Nat) : (s.setWait x).keyDown n = s.keyDown n := rfl
@[simp] theorem setWait_rndIn (x : Reg) : (s.setWait x).rndIn = s.rndIn := rfl
@[simp] theorem setWait_keysIn (x : Reg) : (s.setWait x).keysIn = s.keysIn := rfl
@[simp] theorem clearWait_getV (r : Reg) : (s.clearWait).getV r = s.getV r := rfl
@[simp] theorem clearWait_pixel (p : Pixel) : (s.clearWait).pixel p = s.pixel p := rfl
@[simp] theorem clearWait_slot (n : BitVec 4) : (s.clearWait).slot n = s.slot n := rfl
@[simp] theorem clearWait_readByte (a : Nat) : (s.clearWait).readByte a = s.readByte a := rfl
@[simp] theorem clearWait_keyDown (n : Nat) : (s.clearWait).keyDown n = s.keyDown n := rfl
@[simp] theorem clearWait_rndIn : (s.clearWait).rndIn = s.rndIn := rfl
@[simp] theorem clearWait_keysIn : (s.clearWait).keysIn = s.keysIn := rfl
@[simp] theorem setOutputs_getV (redraw tone : Bool) (r : Reg) : (s.setOutputs redraw tone).getV r = s.getV r := rfl
@[simp] theorem setOutputs_pixel (redraw tone : Bool) (p : Pixel) : (s.setOutputs redraw tone).pixel p = s.pixel p := rfl
@[simp] theorem setOutputs_slot (redraw tone : Bool) (n : BitVec 4) : (s.setOutputs redraw tone).slot n = s.slot n := rfl
@[simp] theorem setOutputs_readByte (redraw tone : Bool) (a : Nat) : (s.setOutputs redraw tone).readByte a = s.readByte a := rfl
@[simp] theorem setOutputs_keyDown (redraw tone : Bool) (n : Nat) : (s.setOutputs redraw tone).keyDown n = s.keyDown n := rfl
@[simp] theorem setOutputs_rndIn (redraw tone : Bool) : (s.setOutputs redraw tone).rndIn = s.rndIn := rfl
@[simp] theorem setOutputs_keysIn (redraw tone : Bool) : (s.setOutputs redraw tone).keysIn = s.keysIn := rfl
@[simp] theorem clearRedraw_getV (r : Reg) : (s.clearRedraw).getV r = s.getV r := rfl
@[simp] theorem clearRedraw_pixel (p : Pixel) : (s.clearRedraw).pixel p = s.pixel p := rfl
@[simp] theorem clearRedraw_slot (n : BitVec 4) : (s.clearRedraw).slot n = s.slot n := rfl
@[simp] theorem clearRedraw_readByte (a : Nat) : (s.clearRedraw).readByte a = s.readByte a := rfl
@[simp] theorem clearRedraw_keyDown (n : Nat) : (s.clearRedraw).keyDown n = s.keyDown n := rfl
@[simp] theorem clearRedraw_rndIn : (s.clearRedraw).rndIn = s.rndIn := rfl
@[simp] theorem clearRedraw_keysIn : (s.clearRedraw).keysIn = s.keysIn := rfl
@[simp] theorem setV_pixel (x : Reg) (b : Byte) (p : Pixel) : (s.setV x b).pixel p = s.pixel p := rfl
@[simp] theorem setV_slot (x : Reg) (b : Byte) (n : BitVec 4) : (s.setV x b).slot n = s.slot n := rfl
@[simp] theorem setV_readByte (x : Reg) (b : Byte) (a : Nat) : (s.setV x b).readByte a = s.readByte a := rfl
@[simp] theorem setV_keyDown (x : Reg) (b : Byte) (n : Nat) : (s.setV x b).keyDown n = s.keyDown n := rfl
@[simp] theorem setV_rndIn (x : Reg) (b : Byte) : (s.setV x b).rndIn = s.rndIn := rfl
@[simp] theorem setV_keysIn (x : Reg) (b : Byte) : (s.setV x b).keysIn = s.keysIn := rfl
@[simp] theorem takeFault_getV (f : Fault) (r : Reg) : (s.takeFault f).getV r = s.getV r := rfl
@[simp] theorem takeFault_pixel (f : Fault) (p : Pixel) : (s.takeFault f).pixel p = s.pixel p := rfl
@[simp] theorem takeFault_slot (f : Fault) (n : BitVec 4) : (s.takeFault f).slot n = s.slot n := rfl
@[simp] theorem takeFault_readByte (f : Fault) (a : Nat) : (s.takeFault f).readByte a = s.readByte a := rfl
@[simp] theorem takeFault_keyDown (f : Fault) (n : Nat) : (s.takeFault f).keyDown n = s.keyDown n := rfl
@[simp] theorem takeFault_rndIn (f : Fault) : (s.takeFault f).rndIn = s.rndIn := rfl
@[simp] theorem takeFault_keysIn (f : Fault) : (s.takeFault f).keysIn = s.keysIn := rfl
@[simp] theorem consumeInput_getV (r : Reg) : (s.consumeInput).getV r = s.getV r := rfl
@[simp] theorem consumeInput_pixel (p : Pixel) : (s.consumeInput).pixel p = s.pixel p := rfl
@[simp] theorem consumeInput_slot (n : BitVec 4) : (s.consumeInput).slot n = s.slot n := rfl
@[simp] theorem consumeInput_readByte (a : Nat) : (s.consumeInput).readByte a = s.readByte a := rfl
@[simp] theorem consumeInput_keyDown (n : Nat) : (s.consumeInput).keyDown n = s.keyDown n := rfl

end Sys2Proof.Machine
end

