-- ==== Sys2Proof/Laws/Ops.lean ====
section
/-! SUPPORT. One lemma for each shared operation of Machine/Ops.lean that says everything it can do. -/

namespace Sys2Proof.Machine

/-! ### General registers and the stack -/

@[simp] theorem getV_setV (s : State) (x y : Reg) (b : Byte) :
    (s.setV x b).getV y = if y = x then b else s.getV y := by
  simp only [State.getV, setV_v, Vector.getElem_set]
  by_cases h : y = x
  · simp [h]
  · have : x.toNat ≠ y.toNat := fun e => h (BitVec.eq_of_toNat_eq e).symm
    simp [h, this]

@[simp] theorem getV_setRegs (s : State) (u : Vector Byte 16) (x : Reg) :
    (s.setRegs u).getV x = u[x.toNat]'(x.isLt) := rfl

@[simp] theorem pixel_setDisplay (s : State) (d : Display) (p : Pixel) :
    (s.setDisplay d).pixel p = Display.pixel d p := rfl

@[simp] theorem readByte_setMem (s : State) (m : Memory) (a : Nat) : (s.setMem m).readByte a = m.read a := rfl

@[simp] theorem slot_setStack (s : State) (u : Vector Word 16) (k : BitVec 4) :
    (s.setStack u).slot k = u[k.toNat]'(k.isLt) := rfl

/-- A push either overflows, on a full stack, or writes the next slot and increments `sp`. -/
theorem push_cases (s : State) (a : Word) :
    (s.sp = 15#4 ∧ s.push a = .error .stackOverflow) ∨
    (s.sp ≠ 15#4 ∧ ∃ u, s.push a = .ok ((s.setSp (s.sp + 1#4)).setStack u) ∧
      ∀ k, (s.setStack u).slot k = if k = s.sp + 1#4 then a else s.slot k) := by
  by_cases h : s.sp = 15#4
  · exact .inl ⟨h, by simp [State.push, h]⟩
  · refine .inr ⟨h, _, by rw [State.push, if_neg h], fun k => ?_⟩
    rw [slot_setStack, Vector.getElem_set]
    by_cases hk : k = s.sp + 1#4
    · simp [hk]
    · have : (s.sp + 1#4).toNat ≠ k.toNat := fun e => hk (BitVec.eq_of_toNat_eq e).symm
      rw [if_neg this, if_neg hk]
      rfl

/-- A pop either underflows, on an empty stack, or gives the newest slot and decrements `sp`. -/
theorem pop_cases (s : State) :
    (s.sp = 0#4 ∧ s.pop = .error .stackUnderflow) ∨
    (s.sp ≠ 0#4 ∧ s.pop = .ok (s.slot s.sp, s.setSp (s.sp - 1#4))) := by
  by_cases h : s.sp = 0#4
  · exact .inl ⟨h, by simp [State.pop, h]⟩
  · exact .inr ⟨h, by simp [State.pop, h]⟩

/-! ### Memory -/

namespace Memory

theorem wfFrom_mono {low low' : Nat} {m : Memory} (hl : low' ≤ low) (h : wfFrom low m = true) : wfFrom low' m = true := by
  cases m with
  | nil => rfl
  | cons c rest =>
    obtain ⟨a, b⟩ := c
    simp only [wfFrom, Bool.and_eq_true, decide_eq_true_eq] at h ⊢
    exact ⟨⟨⟨hl.trans h.1.1.1, h.1.1.2⟩, h.1.2⟩, h.2⟩

/-- A canonical memory does not list an address below its first. -/
theorem read_below {low a : Nat} {m : Memory} (h : wfFrom low m = true) (ha : a < low) : read m a = unlisted a := by
  induction m generalizing low with
  | nil => rfl
  | cons c rest ih =>
    obtain ⟨a', b'⟩ := c
    simp only [wfFrom, Bool.and_eq_true, decide_eq_true_eq] at h
    have : a' ≠ a := by omega
    rw [read, if_neg this]
    exact ih h.2 (by omega)

theorem read_write_from {low : Nat} {m : Memory} (h : wfFrom low m = true) (a : Nat) (b : Byte) (c : Nat) :
    read (write m a b) c = if c = a then b else read m c := by
  induction m generalizing low with
  | nil =>
    by_cases hb : b = unlisted a
    · by_cases hc : c = a <;> simp [write, read, hb, hc]
    · by_cases hc : c = a
      · simp [write, read, hb, hc]
      · have : a ≠ c := fun e => hc e.symm
        simp [write, read, hb, hc, this]
  | cons e rest ih =>
    obtain ⟨a', b'⟩ := e
    simp only [wfFrom, Bool.and_eq_true, decide_eq_true_eq] at h
    have below : a ≤ a' → read rest a = unlisted a := fun hle => read_below h.2 (by omega)
    by_cases h1 : a < a'
    · by_cases hb : b = unlisted a
      · rw [write, if_pos h1, if_pos hb]
        by_cases hc : c = a
        · subst hc
          have : a' ≠ c := by omega
          rw [if_pos rfl, read, if_neg this, below h1.le, hb]
        · rw [if_neg hc]
      · rw [write, if_pos h1, if_neg hb, read]
        by_cases hc : c = a
        · simp [hc]
        · have : a ≠ c := fun e => hc e.symm
          rw [if_neg this, if_neg hc]
    · by_cases h2 : a = a'
      · subst h2
        by_cases hb : b = unlisted a
        · rw [write, if_neg h1, if_pos rfl, if_pos hb]
          by_cases hc : c = a
          · subst hc
            rw [if_pos rfl, below le_rfl, hb]
          · have : a ≠ c := fun e => hc e.symm
            rw [if_neg hc, read, if_neg this]
        · rw [write, if_neg h1, if_pos rfl, if_neg hb, read, read]
          by_cases hc : c = a
          · simp [hc]
          · have : a ≠ c := fun e => hc e.symm
            rw [if_neg this, if_neg hc, if_neg this]
      · rw [write, if_neg h1, if_neg h2, read, read, ih h.2]
        by_cases hc : a' = c
        · have : c ≠ a := by omega
          rw [if_pos hc, if_neg this, if_pos hc]
        · rw [if_neg hc, if_neg hc]

theorem write_wfFrom {low a : Nat} {m : Memory} (b : Byte) (h : wfFrom low m = true) (hl : low ≤ a)
    (ha : a < Config.memSize) : wfFrom low (write m a b) = true := by
  induction m generalizing low with
  | nil =>
    by_cases hb : b = unlisted a
    · rw [write, if_pos hb]; rfl
    · rw [write, if_neg hb]
      simp only [wfFrom, Bool.and_eq_true, decide_eq_true_eq]
      exact ⟨⟨⟨hl, ha⟩, hb⟩, trivial⟩
  | cons e rest ih =>
    obtain ⟨a', b'⟩ := e
    have h0 := h
    simp only [wfFrom, Bool.and_eq_true, decide_eq_true_eq] at h
    by_cases h1 : a < a'
    · by_cases hb : b = unlisted a
      · rw [write, if_pos h1, if_pos hb]; exact h0
      · rw [write, if_pos h1, if_neg hb]
        simp only [wfFrom, Bool.and_eq_true, decide_eq_true_eq]
        exact ⟨⟨⟨hl, ha⟩, hb⟩, ⟨⟨⟨h1, h.1.1.2⟩, h.1.2⟩, h.2⟩⟩
    · by_cases h2 : a = a'
      · subst h2
        by_cases hb : b = unlisted a
        · rw [write, if_neg h1, if_pos rfl, if_pos hb]
          exact wfFrom_mono (by omega) h.2
        · rw [write, if_neg h1, if_pos rfl, if_neg hb]
          simp only [wfFrom, Bool.and_eq_true, decide_eq_true_eq]
          exact ⟨⟨⟨hl, ha⟩, hb⟩, h.2⟩
      · rw [write, if_neg h1, if_neg h2]
        simp only [wfFrom, Bool.and_eq_true, decide_eq_true_eq]
        exact ⟨h.1, ih h.2 (by omega)⟩

/-- A read after a write: the value written at the address written, the old value everywhere else. -/
theorem read_write {m : Memory} (h : m.wf = true) (a : Nat) (b : Byte) (c : Nat) :
    (m.write a b).read c = if c = a then b else m.read c := read_write_from h a b c

/-- A write below 4096 keeps the canonical form. -/
theorem write_wf {m : Memory} (h : m.wf = true) (b : Byte) {a : Nat} (ha : a < 4096) : (m.write a b).wf = true :=
  write_wfFrom b h (Nat.zero_le a) ha

/-- A sequence of writes below 4096 keeps the canonical form. -/
theorem writeBytes_wf {m : Memory} {a : Nat} {bs : List Byte} (h : m.wf = true) (ha : a + bs.length ≤ 4096) :
    (m.writeBytes a bs).wf = true := by
  induction bs generalizing m a with
  | nil => exact h
  | cons b bs ih =>
    simp only [List.length_cons] at ha
    exact ih (write_wf h b (by omega)) (by omega)

/-- A read after a sequence of writes below 4096. -/
theorem read_writeBytes {m : Memory} {a : Nat} {bs : List Byte} (h : m.wf = true) (ha : a + bs.length ≤ 4096)
    (c : Nat) : (m.writeBytes a bs).read c = if a ≤ c ∧ c < a + bs.length then bs.getD (c - a) 0#8 else m.read c := by
  induction bs generalizing m a with
  | nil =>
    have : ¬ (a ≤ c ∧ c < a + ([] : List Byte).length) := by simp
    rw [if_neg this]
    rfl
  | cons b bs ih =>
    simp only [List.length_cons] at ha ⊢
    rw [writeBytes, ih (write_wf h b (by omega)) (by omega), read_write h]
    by_cases h1 : c = a
    · subst h1
      have e1 : ¬ (c + 1 ≤ c ∧ c < c + 1 + bs.length) := by omega
      have e2 : c ≤ c ∧ c < c + (bs.length + 1) := by omega
      rw [if_neg e1, if_pos rfl, if_pos e2]
      simp
    · by_cases h2 : a + 1 ≤ c ∧ c < a + 1 + bs.length
      · have e2 : a ≤ c ∧ c < a + (bs.length + 1) := by omega
        obtain ⟨k, hk⟩ : ∃ k, c - a = k + 1 := ⟨c - a - 1, by omega⟩
        rw [if_pos h2, if_pos e2, hk, show c - (a + 1) = k by omega]
        simp
      · have e2 : ¬ (a ≤ c ∧ c < a + (bs.length + 1)) := by omega
        rw [if_neg h2, if_neg h1, if_neg e2]

@[simp] theorem readBytes_length (m : Memory) (a count : Nat) : (m.readBytes a count).length = count := by
  induction count generalizing a with
  | zero => rfl
  | succ n ih => rw [readBytes, List.length_cons, ih]

/-- Byte `k` of a sequence of bytes read. -/
theorem readBytes_getD (m : Memory) (a count k : Nat) (hk : k < count) :
    (m.readBytes a count).getD k 0#8 = m.read (a + k) := by
  induction count generalizing a k with
  | zero => omega
  | succ n ih =>
    cases k with
    | zero => simp [readBytes]
    | succ k =>
      rw [readBytes, List.getD_cons_succ, ih (a + 1) k (by omega)]
      congr 1
      omega

end Memory

/-! ### Range-checked access -/

/-- The range check passes when no byte is accessed or the last address exists, and otherwise names the lowest address above
4095. -/
theorem accessFault_cases (base count : Nat) :
    ((count = 0 ∨ base + count ≤ 4096) ∧ accessFault base count = none) ∨
    (¬ (count = 0 ∨ base + count ≤ 4096) ∧ accessFault base count = some (.memoryOutOfRange (max base 4096))) := by
  by_cases h : 0 < count ∧ Config.memSize < base + count
  · exact .inr ⟨by simp only [Config.memSize] at h; omega, by rw [accessFault, if_pos h]⟩
  · exact .inl ⟨by simp only [Config.memSize] at h; omega, by rw [accessFault, if_neg h]⟩

theorem loadBytes_cases (s : State) (base count : Nat) :
    ((count = 0 ∨ base + count ≤ 4096) ∧ s.loadBytes base count = .ok (s.mem.readBytes base count)) ∨
    (¬ (count = 0 ∨ base + count ≤ 4096) ∧ s.loadBytes base count = .error (.memoryOutOfRange (max base 4096))) := by
  rcases accessFault_cases base count with ⟨h, e⟩ | ⟨h, e⟩
  · exact .inl ⟨h, by rw [State.loadBytes, e]⟩
  · exact .inr ⟨h, by rw [State.loadBytes, e]⟩

theorem storeBytes_cases (s : State) (base : Nat) (bytes : List Byte) :
    ((bytes.length = 0 ∨ base + bytes.length ≤ 4096) ∧
      s.storeBytes base bytes = .ok (s.setMem (s.mem.writeBytes base bytes))) ∨
    (¬ (bytes.length = 0 ∨ base + bytes.length ≤ 4096) ∧
      s.storeBytes base bytes = .error (.memoryOutOfRange (max base 4096))) := by
  rcases accessFault_cases base bytes.length with ⟨h, e⟩ | ⟨h, e⟩
  · exact .inl ⟨h, by rw [State.storeBytes, e]⟩
  · exact .inr ⟨h, by rw [State.storeBytes, e]⟩

/-! ### Sequences of registers -/

@[simp] theorem regBytes_length (s : State) (k count : Nat) : (s.regBytes k count).length = count := by
  induction count generalizing k with
  | zero => rfl
  | succ n ih => rw [State.regBytes, List.length_cons, ih]

theorem regBytes_getD (s : State) (k count j : Nat) (hj : j < count) :
    (s.regBytes k count).getD j 0#8 = s.getV (BitVec.ofNat 4 (k + j)) := by
  induction count generalizing k j with
  | zero => omega
  | succ n ih =>
    cases j with
    | zero => simp [State.regBytes]
    | succ j =>
      rw [State.regBytes, List.getD_cons_succ, ih (k + 1) j (by omega)]
      congr 2
      omega

/-- A sequence of registers as a list of reads. -/
theorem regBytes_eq_map (s : State) (k count : Nat) :
    s.regBytes k count = (List.range count).map fun j => s.getV (BitVec.ofNat 4 (k + j)) := by
  induction count generalizing k with
  | zero => rfl
  | succ n ih =>
    rw [State.regBytes, ih, List.range_succ_eq_map]
    simp [Nat.add_assoc, Nat.add_comm 1]

/-- Loading registers changes nothing but registers. -/
theorem loadRegs_frame (s : State) (k : Nat) (bs : List Byte) :
    State.loadRegs k bs s = s.setRegs (State.loadRegs k bs s).v := by
  induction bs generalizing s k with
  | nil => rfl
  | cons b bs ih =>
    rw [State.loadRegs, ih]
    rfl

/-- Loading registers gives each register from `k` on its byte and leaves the others alone. -/
theorem getV_loadRegs (s : State) (k : Nat) (bs : List Byte) (hk : k + bs.length ≤ 16) (r : Reg) :
    (State.loadRegs k bs s).getV r =
      if k ≤ r.toNat ∧ r.toNat < k + bs.length then bs.getD (r.toNat - k) 0#8 else s.getV r := by
  induction bs generalizing s k with
  | nil =>
    have : ¬ (k ≤ r.toNat ∧ r.toNat < k + ([] : List Byte).length) := by simp
    rw [if_neg this]
    rfl
  | cons b bs ih =>
    simp only [List.length_cons] at hk ⊢
    rw [State.loadRegs, ih _ (k + 1) (by omega), getV_setV]
    have hr : r = BitVec.ofNat 4 k ↔ r.toNat = k := by
      rw [← BitVec.toNat_inj, BitVec.toNat_ofNat, Nat.mod_eq_of_lt (by omega)]
    by_cases h1 : r.toNat = k
    · have e1 : ¬ (k + 1 ≤ r.toNat ∧ r.toNat < k + 1 + bs.length) := by omega
      have e2 : k ≤ r.toNat ∧ r.toNat < k + (bs.length + 1) := by omega
      rw [if_neg e1, if_pos (hr.mpr h1), if_pos e2, show r.toNat - k = 0 by omega]
      simp
    · by_cases h2 : k + 1 ≤ r.toNat ∧ r.toNat < k + 1 + bs.length
      · have e2 : k ≤ r.toNat ∧ r.toNat < k + (bs.length + 1) := by omega
        obtain ⟨j, hj⟩ : ∃ j, r.toNat - k = j + 1 := ⟨r.toNat - k - 1, by omega⟩
        rw [if_pos h2, if_pos e2, hj, show r.toNat - (k + 1) = j by omega]
        simp
      · have e2 : ¬ (k ≤ r.toNat ∧ r.toNat < k + (bs.length + 1)) := by omega
        rw [if_neg h2, if_neg (fun e => h1 (hr.mp e)), if_neg e2]

/-! ### The display -/

@[simp] theorem pixel_clear (p : Pixel) : Display.pixel Display.clear p = false := by
  simp [Display.pixel, Display.clear]

/-- Flipping a pixel turns that pixel and no other. -/
theorem pixel_flip (d : Display) (p q : Pixel) :
    Display.pixel (Display.flip d p) q = (Display.pixel d q ^^ decide (q = p)) := by
  have hp := p.isLt
  have hq := q.isLt
  simp only [Display.pixel, Display.flip, Vector.getElem_set]
  by_cases h1 : p.val / 64 = q.val / 64
  · have e1 : d[q.val / 64]'(by omega) = d[p.val / 64]'(by omega) := by simp only [h1]
    rw [if_pos h1, e1, BitVec.getLsbD_xor, BitVec.getLsbD_twoPow]
    congr 1
    by_cases h2 : q = p
    · subst h2
      simp [Nat.mod_lt]
    · have : p.val % 64 ≠ q.val % 64 := fun e => h2 (Fin.ext (by omega))
      simp [h2, this]
  · have h2 : q ≠ p := fun e => h1 (by rw [e])
    rw [if_neg h1]
    simp [h2]

/-! ### Taking a fault -/

@[simp] theorem raise_eq (f : Fault) (s : State) : raise f s = .next (s.takeFault f) := rfl

/-- No fault has code 0 or 7. -/
theorem faultCodeOf_ne (f : Fault) : faultCodeOf f ≠ 0#3 ∧ faultCodeOf f ≠ 7#3 := by
  cases f <;> simp [faultCodeOf]

/-! ### The keypad -/

/-- The lowest pressed key of a snapshot: a pressed key with none pressed below it, or no key is pressed. -/
theorem lowestKey_cases (keys : BitVec 16) :
    (∃ k, lowestKey keys = some k ∧ k < 16 ∧ keys.getLsbD k = true ∧ ∀ j < k, keys.getLsbD j = false) ∨
    (lowestKey keys = none ∧ ∀ j < 16, keys.getLsbD j = false) := by
  cases h : lowestKey keys with
  | none =>
    refine .inr ⟨rfl, fun j hj => ?_⟩
    have := List.find?_eq_none.mp h j (List.mem_range.mpr hj)
    simpa using this
  | some k =>
    rw [lowestKey, List.find?_range_eq_some] at h
    exact .inl ⟨k, rfl, by simpa using h.2.1, h.1, fun j hj => by simpa using h.2.2 j hj⟩

end Sys2Proof.Machine
end

