-- ==== Sys2Proof/Laws/Cycle.lean ====
section
/-! SUPPORT. What the execute phase and a step can do, said once: every other fact about all instructions follows from
`exec_cases`, every fact about all cycles from `step_cases`. -/

namespace Sys2Proof.Machine

/-! ### The phases -/

@[simp] theorem fetchWord_latchInputs (s : State) : s.latchInputs.fetchWord = s.fetchWord := rfl

@[simp] theorem getV_latchInputs (s : State) (x : Reg) : s.latchInputs.getV x = s.getV x := rfl

@[simp] theorem slot_latchInputs (s : State) (k : BitVec 4) : s.latchInputs.slot k = s.slot k := rfl

@[simp] theorem readByte_latchInputs (s : State) (a : Nat) : s.latchInputs.readByte a = s.readByte a := rfl

@[simp] theorem keyDown_latchInputs (s : State) (k : Nat) : s.latchInputs.keyDown k = s.keysIn.getLsbD k := rfl

/-- A fetch reads the word at `pc`, or names the lowest address above 4095. -/
theorem fetchWord_cases (s : State) :
    (s.pc.toNat ≤ 4094 ∧ s.fetchWord = .ok (wordOfBytes (s.readByte s.pc.toNat) (s.readByte (s.pc.toNat + 1)))) ∨
    (4094 < s.pc.toNat ∧ s.fetchWord = .error (.memoryOutOfRange (max s.pc.toNat 4096))) := by
  rcases accessFault_cases s.pc.toNat 2 with ⟨h, e⟩ | ⟨h, e⟩
  · exact .inl ⟨by omega, by rw [State.fetchWord, e]⟩
  · exact .inr ⟨by omega, by rw [State.fetchWord, e]⟩

/-- A timer counts down by one and stops at 0. -/
theorem countdown_toNat (b : Byte) : (countdown b).toNat = b.toNat - 1 := by
  by_cases h : b = 0#8
  · simp [countdown, h]
  · have : b.toNat ≠ 0 := fun e => h (BitVec.eq_of_toNat_eq e)
    have := b.isLt
    rw [countdown, if_neg h, BitVec.toNat_sub, BitVec.toNat_ofNat]
    omega

/-- The end of a cycle whose execute phase answered `t`. -/
theorem finishCycle_next (before t : State) :
    finishCycle before (.next t) =
      .next (if t.faultCode = 0#3 then t.tickTimers.advancePc.emitOutputs else State.haltAfter before t) := by
  rw [finishCycle]
  split <;> rfl

/-- Phases 1 and 2 as one record update. -/
theorem latchInputs_eq (s : State) :
    s.latchInputs = { s with keypad := s.keysIn, toneActive := decide (s.st ≠ 0#8) } := rfl

/-- Phases 6 to 8 as one record update. -/
theorem finished_eq (t : State) :
    t.tickTimers.advancePc.emitOutputs =
      { t with dt := countdown t.dt, st := countdown t.st, pc := t.pc + 2#16, redrawNeeded := t.redrawFlag,
               redrawFlag := false, inputs := t.inputs.tail, inputCount := t.inputCount + 1 } := rfl

/-- Phase 8 of a wait cycle as one record update. -/
theorem emitOutputs_eq (t : State) :
    t.emitOutputs = { t with redrawNeeded := t.redrawFlag, redrawFlag := false, inputs := t.inputs.tail,
                             inputCount := t.inputCount + 1 } := rfl

/-- A wait ends with the lowest pressed key, or nothing happens. -/
theorem resolveWait_cases (s : State) :
    (∃ k, lowestKey s.keypad = some k ∧ s.resolveWait = (s.setV s.waitReg (BitVec.ofNat 8 k)).clearWait) ∨
    (lowestKey s.keypad = none ∧ s.resolveWait = s) := by
  rw [State.resolveWait]
  cases lowestKey s.keypad with
  | none => exact .inr ⟨rfl, rfl⟩
  | some k => exact .inl ⟨k, rfl, rfl⟩

/-- One more step of a run of any machine. -/
theorem core_run_succ {M : Host.Core} {k : Nat} {s u : M.State} (h : M.step s = .next u) : M.run (k + 1) s = M.run k u := by
  rw [Host.Core.run, h]

/-- One more step of a run, in the model's own names. -/
theorem run_succ_of_next {k : Nat} {s u : State} (h : step s = .next u) :
    Sys2Proof.core.run (k + 1) s = Sys2Proof.core.run k u := core_run_succ (M := Sys2Proof.core) h

/-! ### What the execute phase can do -/

/-- The parts no instruction writes in its execute phase, the fault entry apart: the keypad latch, the outputs, the fault latch and
the inputs; and a canonical memory stays canonical. -/
def ExecKeeps (s t : State) : Prop :=
  t.keypad = s.keypad ∧ t.redrawNeeded = s.redrawNeeded ∧ t.toneActive = s.toneActive ∧
  t.faultCode = s.faultCode ∧ t.faultPc = s.faultPc ∧ t.faultInfo = s.faultInfo ∧
  t.inputs = s.inputs ∧ t.inputCount = s.inputCount ∧ (s.mem.wf = true → t.mem.wf = true)

theorem ExecKeeps.of_eqs {s t : State} (h1 : t.keypad = s.keypad) (h2 : t.redrawNeeded = s.redrawNeeded)
    (h3 : t.toneActive = s.toneActive) (h4 : t.faultCode = s.faultCode) (h5 : t.faultPc = s.faultPc)
    (h6 : t.faultInfo = s.faultInfo) (h7 : t.inputs = s.inputs) (h8 : t.inputCount = s.inputCount)
    (h9 : t.mem = s.mem) : ExecKeeps s t :=
  ⟨h1, h2, h3, h4, h5, h6, h7, h8, fun h => h9 ▸ h⟩

/-- A range-checked store keeps all of it too. -/
theorem ExecKeeps.of_store {s : State} {base : Nat} {bytes : List Byte}
    (h : bytes.length = 0 ∨ base + bytes.length ≤ 4096) : ExecKeeps s (s.setMem (s.mem.writeBytes base bytes)) := by
  refine ⟨rfl, rfl, rfl, rfl, rfl, rfl, rfl, rfl, fun hw => ?_⟩
  rcases h with h | h
  · rw [List.length_eq_zero_iff.mp h]
    exact hw
  · exact Memory.writeBytes_wf hw h

/-- An execute phase that answers a next state has either taken a fault, changing nothing else, or kept the parts no instruction
writes. -/
theorem exec_cases {i : Instr} {s t : State} (h : exec i s = .next t) : (∃ f, t = s.takeFault f) ∨ ExecKeeps s t := by
  have plain : ∀ {u : State}, Host.Outcome.next u = (Host.Outcome.next t : Result) → ExecKeeps s u →
      (∃ f, t = s.takeFault f) ∨ ExecKeeps s t := by
    rintro u h k
    cases h
    exact .inr k
  have fault : ∀ {f : Fault}, raise f s = .next t → (∃ f, t = s.takeFault f) ∨ ExecKeeps s t := by
    rintro f h
    cases h
    exact .inl ⟨f, rfl⟩
  have store : ∀ {bytes : List Byte},
      (match s.storeBytes s.base bytes with
        | .error f => raise f s
        | .ok t => .next t) = .next t → (∃ f, t = s.takeFault f) ∨ ExecKeeps s t := by
    intro bytes h
    rcases storeBytes_cases s s.base bytes with ⟨hr, e⟩ | ⟨-, e⟩ <;> rw [e] at h
    · exact plain h (.of_store hr)
    · exact fault h
  cases i with
  | ret =>
    rcases pop_cases s with ⟨-, e⟩ | ⟨-, e⟩ <;> rw [exec, execRet, e] at h
    · exact fault h
    · exact plain h (.of_eqs rfl rfl rfl rfl rfl rfl rfl rfl rfl)
  | callAddr nnn =>
    rcases push_cases s s.pc with ⟨-, e⟩ | ⟨-, u, e, -⟩ <;> rw [exec, execCallAddr, e] at h
    · exact fault h
    · exact plain h (.of_eqs rfl rfl rfl rfl rfl rfl rfl rfl rfl)
  | ldBVx x => exact store h
  | ldMemVx x => exact store h
  | ldVxMem x =>
    rcases loadBytes_cases s s.base (x.toNat + 1) with ⟨-, e⟩ | ⟨-, e⟩ <;> rw [exec, execLdVxMem, e] at h
    · refine plain h ?_
      rw [loadRegs_frame]
      exact .of_eqs rfl rfl rfl rfl rfl rfl rfl rfl rfl
    · exact fault h
  | drwVxVyN x y n =>
    rcases loadBytes_cases s s.base n with ⟨-, e⟩ | ⟨-, e⟩ <;> rw [exec, execDrwVxVyN, e] at h
    · exact plain h (.of_eqs rfl rfl rfl rfl rfl rfl rfl rfl rfl)
    · exact fault h
  | skpVx x =>
    rw [exec, execSkpVx] at h
    split at h
    · exact fault h
    · exact plain h (.of_eqs rfl rfl rfl rfl rfl rfl rfl rfl rfl)
  | sknpVx x =>
    rw [exec, execSknpVx] at h
    split at h
    · exact fault h
    · exact plain h (.of_eqs rfl rfl rfl rfl rfl rfl rfl rfl rfl)
  | _ => exact plain h (.of_eqs rfl rfl rfl rfl rfl rfl rfl rfl rfl)

/-! ### What a step can do -/

/-- What phases 3 to 5 of a `Running` cycle lead to, from the latched state: a fetch fault, an unknown word, or the state an
instruction's execute phase answers. -/
def Executes (s t : State) : Prop :=
  (∃ f, s.fetchWord = .error f ∧ t = s.latchInputs.takeFault f) ∨
  (∃ w, s.fetchWord = .ok w ∧ decodeWord w = none ∧ t = s.latchInputs.takeFault (.unknownInstruction w)) ∨
  ∃ w i, s.fetchWord = .ok w ∧ decodeWord w = some i ∧ exec i s.latchInputs = .next t

/-- A step that answers a next state was a halted cycle, a wait cycle, or a cycle that executed and finished. -/
theorem step_cases {s u : State} (h : step s = .next u) :
    (s.faultCode ≠ 0#3 ∧ u = s.haltedCycle) ∨
    (s.faultCode = 0#3 ∧ s.waiting = true ∧ u = s.latchInputs.resolveWait.emitOutputs) ∨
    (s.faultCode = 0#3 ∧ s.waiting = false ∧ ∃ t, Executes s t ∧
      u = if t.faultCode = 0#3 then t.tickTimers.advancePc.emitOutputs else State.haltAfter s t) := by
  have finish : ∀ {t : State}, finishCycle s (.next t) = .next u →
      u = if t.faultCode = 0#3 then t.tickTimers.advancePc.emitOutputs else State.haltAfter s t := by
    intro t h
    rw [finishCycle_next] at h
    cases h
    rfl
  rw [step, runCycle] at h
  by_cases hf : s.faultCode = 0#3
  · rw [if_neg (not_not.mpr hf)] at h
    cases hw : s.waiting with
    | true =>
      rw [hw, if_pos rfl] at h
      cases h
      exact .inr (.inl ⟨hf, rfl, rfl⟩)
    | false =>
      rw [hw, if_neg Bool.false_ne_true, runInstruction, fetchWord_latchInputs] at h
      refine .inr (.inr ⟨hf, rfl, ?_⟩)
      cases hfe : s.fetchWord with
      | error f =>
        rw [hfe] at h
        exact ⟨_, .inl ⟨f, hfe, rfl⟩, finish h⟩
      | ok w =>
        rw [hfe] at h
        cases hd : decodeWord w with
        | none =>
          simp only [hd] at h
          exact ⟨_, .inr (.inl ⟨w, hfe, hd, rfl⟩), finish h⟩
        | some i =>
          simp only [hd] at h
          cases he : exec i s.latchInputs with
          | next t =>
            rw [he] at h
            exact ⟨t, .inr (.inr ⟨w, i, hfe, hd, he⟩), finish h⟩
          | fault f =>
            rw [he] at h
            cases h
          | refused f =>
            rw [he] at h
            cases h
  · rw [if_pos hf] at h
    cases h
    exact .inl ⟨hf, rfl⟩

end Sys2Proof.Machine
end

