-- ==== Sys2Proof/Laws/Draw.lean ====
section
/-! SUPPORT. What drawing a sprite does to a display, said once: it plots the pixels of the sprite's bits that are 1, no two of
which are the same pixel, so each of them is flipped, no other is, and the collision is a pixel among them that was on
(spec/44_display.md rule R112). -/

namespace Sys2Proof.Machine

/-- Plot a list of pixels, one after the other. -/
def plotAll : List Pixel → Display × Bool → Display × Bool
  | [], d => d
  | p :: ps, d => plotAll ps (plot p d)

theorem plotAll_append (ps qs : List Pixel) (d : Display × Bool) : plotAll (ps ++ qs) d = plotAll qs (plotAll ps d) := by
  induction ps generalizing d with
  | nil => rfl
  | cons p ps ih => exact ih _

/-- The pixels of one sprite row, left to right. -/
def rowPixels (wrap : DrawWrap) (vx vy row : Nat) (b : Byte) : List Pixel :=
  ((List.range 8).filter (spriteBit b)).map (pixelIndex wrap vx vy row)

/-- The pixels of the sprite rows from row `row` on. -/
def spritePixels (wrap : DrawWrap) (vx vy : Nat) : Nat → List Byte → List Pixel
  | _, [] => []
  | row, b :: bs => rowPixels wrap vx vy row b ++ spritePixels wrap vx vy (row + 1) bs

theorem drawColumns_eq (wrap : DrawWrap) (vx vy row : Nat) (b : Byte) (cols : List Nat) (d : Display × Bool) :
    drawColumns wrap vx vy row b cols d = plotAll ((cols.filter (spriteBit b)).map (pixelIndex wrap vx vy row)) d := by
  induction cols generalizing d with
  | nil => rfl
  | cons c cs ih =>
    rw [drawColumns, ih]
    by_cases h : spriteBit b c = true <;> simp [h, plotAll]

theorem drawRows_eq (wrap : DrawWrap) (vx vy row : Nat) (bs : List Byte) (d : Display × Bool) :
    drawRows wrap vx vy row bs d = plotAll (spritePixels wrap vx vy row bs) d := by
  induction bs generalizing row d with
  | nil => rfl
  | cons b bs ih => rw [drawRows, ih, drawColumns_eq, spritePixels, plotAll_append, rowPixels]

/-- Plotting a list flips each pixel as often as it occurs in it. -/
theorem plotAll_pixel (ps : List Pixel) (d : Display × Bool) (q : Pixel) :
    Display.pixel (plotAll ps d).1 q = (Display.pixel d.1 q ^^ decide (ps.count q % 2 = 1)) := by
  induction ps generalizing d with
  | nil => simp [plotAll]
  | cons p ps ih =>
    rw [plotAll, ih, plot, pixel_flip, List.count_cons]
    by_cases h : q = p
    · subst h
      rcases Nat.mod_two_eq_zero_or_one (ps.count q) with e | e <;> simp [e, Nat.add_mod]
    · have : p ≠ q := fun e => h e.symm
      simp [h, this]

/-- The collision of a list without repeats: a pixel of it was on. -/
theorem plotAll_collision (ps : List Pixel) (hn : ps.Nodup) (d : Display × Bool) :
    (plotAll ps d).2 = (d.2 || ps.any fun p => Display.pixel d.1 p) := by
  induction ps generalizing d with
  | nil => simp [plotAll]
  | cons p ps ih =>
    rw [List.nodup_cons] at hn
    have e : (ps.any fun q => Display.pixel (Display.flip d.1 p) q) = ps.any fun q => Display.pixel d.1 q := by
      rw [Bool.eq_iff_iff, List.any_eq_true, List.any_eq_true]
      refine exists_congr fun q => and_congr_right fun hq => ?_
      have : q ≠ p := fun e => hn.1 (e ▸ hq)
      rw [pixel_flip, decide_eq_false this, Bool.xor_false]
    rw [plotAll, ih hn.2, plot, e, List.any_cons, Bool.or_assoc]

theorem mem_rowPixels {wrap : DrawWrap} {vx vy row : Nat} {b : Byte} {p : Pixel} :
    p ∈ rowPixels wrap vx vy row b ↔ ∃ col < 8, spriteBit b col = true ∧ pixelIndex wrap vx vy row col = p := by
  simp only [rowPixels, List.mem_map, List.mem_filter, List.mem_range, and_assoc]

/-- The pixels of a sprite are those of its bits that are 1. -/
theorem mem_spritePixels {wrap : DrawWrap} {vx vy row : Nat} {bs : List Byte} {p : Pixel} :
    p ∈ spritePixels wrap vx vy row bs ↔
      ∃ k < bs.length, ∃ col < 8, spriteBit (bs.getD k 0#8) col = true ∧ pixelIndex wrap vx vy (row + k) col = p := by
  induction bs generalizing row with
  | nil => simp [spritePixels]
  | cons b bs ih =>
    rw [spritePixels, List.mem_append, mem_rowPixels, ih]
    constructor
    · rintro (h | ⟨k, hk, h⟩)
      · exact ⟨0, by simp, by simpa using h⟩
      · exact ⟨k + 1, by simpa using hk, by simpa [Nat.add_assoc, Nat.add_comm 1 k] using h⟩
    · rintro ⟨k, hk, h⟩
      cases k with
      | zero => exact .inl (by simpa using h)
      | succ k => exact .inr ⟨k, by simpa using hk, by simpa [Nat.add_assoc, Nat.add_comm 1 k] using h⟩

/-- The linear index of a sprite bit as a number. -/
theorem pixelIndex_linear (vx vy row col : Nat) :
    (pixelIndex .linear vx vy row col).val = ((vy + row) * 64 + (vx + col)) % 2048 := rfl

/-- Under the linear index two bits of a sprite of at most 31 rows never fall on the same pixel. -/
theorem spritePixels_nodup (vx vy row : Nat) (bs : List Byte) (hb : bs.length ≤ 31) :
    (spritePixels .linear vx vy row bs).Nodup := by
  induction bs generalizing row with
  | nil => exact List.nodup_nil
  | cons b bs ih =>
    simp only [List.length_cons] at hb
    rw [spritePixels, List.nodup_append]
    refine ⟨?_, ih _ (by omega), ?_⟩
    · refine List.Nodup.map_on ?_ (List.nodup_range.filter _)
      intro c hc c' hc' e
      simp only [List.mem_filter, List.mem_range] at hc hc'
      have := congrArg Fin.val e
      rw [pixelIndex_linear, pixelIndex_linear] at this
      omega
    · intro p hp q hq e
      obtain ⟨c, hc, -, h1⟩ := mem_rowPixels.mp hp
      obtain ⟨k, hk, c', hc', -, h2⟩ := mem_spritePixels.mp hq
      have := congrArg Fin.val ((h1.trans e).trans h2.symm)
      rw [pixelIndex_linear, pixelIndex_linear] at this
      omega

/-- Drawing a sprite of at most 31 rows under the linear index: a pixel is flipped exactly when some bit that is 1 falls on it, and
the collision says that one of those pixels was on. -/
theorem drawSprite_linear (vx vy : Nat) (bs : List Byte) (d : Display) (hb : bs.length ≤ 31) :
    (∀ q, Display.pixel (drawSprite .linear vx vy bs d).1 q =
      (Display.pixel d q ^^ decide (q ∈ spritePixels .linear vx vy 0 bs))) ∧
    ((drawSprite .linear vx vy bs d).2 = true ↔ ∃ q ∈ spritePixels .linear vx vy 0 bs, Display.pixel d q = true) := by
  have hn := spritePixels_nodup vx vy 0 bs hb
  rw [drawSprite, drawRows_eq]
  refine ⟨fun q => ?_, ?_⟩
  · rw [plotAll_pixel]
    congr 1
    by_cases h : q ∈ spritePixels .linear vx vy 0 bs
    · simp [h, List.count_eq_one_of_mem hn h]
    · simp [h, List.count_eq_zero_of_not_mem h]
  · rw [plotAll_collision _ hn, Bool.false_or, List.any_eq_true]

end Sys2Proof.Machine
end

