-- ==== Sys2Proof/Laws/Word.lean ====
section
/-! SUPPORT. The views of an instruction word as numbers, and the words the encoder builds: what every proof about encodings
rests on. -/

namespace Sys2Proof

theorem toNat_append {m n : Nat} (a : BitVec m) (b : BitVec n) : (a ++ b).toNat = a.toNat * 2 ^ n + b.toNat := by
  rw [BitVec.toNat_append, ← Nat.shiftLeft_add_eq_or_of_lt b.isLt, Nat.shiftLeft_eq]

theorem fieldN1_toNat (w : Word) : (fieldN1 w).toNat = w.toNat / 4096 := by
  have := w.isLt
  simp only [fieldN1, BitVec.extractLsb'_toNat, Nat.shiftRight_eq_div_pow]
  omega

theorem fieldX_toNat (w : Word) : (fieldX w).toNat = w.toNat / 256 % 16 := by
  simp only [fieldX, BitVec.extractLsb'_toNat, Nat.shiftRight_eq_div_pow]

theorem fieldY_toNat (w : Word) : (fieldY w).toNat = w.toNat / 16 % 16 := by
  simp only [fieldY, BitVec.extractLsb'_toNat, Nat.shiftRight_eq_div_pow]

theorem fieldN_toNat (w : Word) : (fieldN w).toNat = w.toNat % 16 := by
  simp only [fieldN, BitVec.extractLsb'_toNat, Nat.shiftRight_eq_div_pow, Nat.pow_zero, Nat.div_one]

theorem fieldKk_toNat (w : Word) : (fieldKk w).toNat = w.toNat % 256 := by
  simp only [fieldKk, BitVec.extractLsb'_toNat, Nat.shiftRight_eq_div_pow, Nat.pow_zero, Nat.div_one]

theorem fieldNnn_toNat (w : Word) : (fieldNnn w).toNat = w.toNat % 4096 := by
  simp only [fieldNnn, BitVec.extractLsb'_toNat, Nat.shiftRight_eq_div_pow, Nat.pow_zero, Nat.div_one]

theorem highByte_toNat (w : Word) : (highByte w).toNat = w.toNat / 256 := by
  have := w.isLt
  simp only [highByte, BitVec.extractLsb'_toNat, Nat.shiftRight_eq_div_pow]
  omega

theorem lowByte_toNat (w : Word) : (lowByte w).toNat = w.toNat % 256 := by
  simp only [lowByte, BitVec.extractLsb'_toNat, Nat.shiftRight_eq_div_pow, Nat.pow_zero, Nat.div_one]

theorem wordOfBytes_toNat (hi lo : Byte) : (wordOfBytes hi lo).toNat = hi.toNat * 256 + lo.toNat :=
  toNat_append hi lo

theorem wordA_toNat (k : Nibble) (nnn : Addr) : (wordA k nnn).toNat = k.toNat * 4096 + nnn.toNat :=
  toNat_append k nnn

theorem wordXK_toNat (k : Nibble) (x : Reg) (kk : Byte) :
    (wordXK k x kk).toNat = k.toNat * 4096 + x.toNat * 256 + kk.toNat := by
  refine (toNat_append (k ++ x) kk).trans ?_
  rw [toNat_append k x]
  omega

theorem wordXYN_toNat (k : Nibble) (x y : Reg) (n : Nibble) :
    (wordXYN k x y n).toNat = k.toNat * 4096 + x.toNat * 256 + y.toNat * 16 + n.toNat := by
  refine (toNat_append (k ++ x ++ y) n).trans ?_
  rw [toNat_append (k ++ x) y, toNat_append k x]
  omega

/-- Putting the two bytes of a word together gives the word back. -/
@[simp] theorem wordOfBytes_bytes (w : Word) : wordOfBytes (highByte w) (lowByte w) = w := by
  apply BitVec.eq_of_toNat_eq
  rw [wordOfBytes_toNat, highByte_toNat, lowByte_toNat]
  omega

/-- A word is its four nibbles. -/
theorem word_eq_nibbles (w : Word) : w = wordXYN (fieldN1 w) (fieldX w) (fieldY w) (fieldN w) := by
  apply BitVec.eq_of_toNat_eq
  rw [wordXYN_toNat, fieldN1_toNat, fieldX_toNat, fieldY_toNat, fieldN_toNat]
  have := w.isLt
  omega

/-- Words with the same four nibbles are equal, and only they. -/
theorem wordXYN_inj {a b c d a' b' c' d' : Nibble} :
    wordXYN a b c d = wordXYN a' b' c' d' ↔ a = a' ∧ b = b' ∧ c = c' ∧ d = d' := by
  refine ⟨fun h => ?_, fun ⟨h1, h2, h3, h4⟩ => by rw [h1, h2, h3, h4]⟩
  have h := congrArg BitVec.toNat h
  rw [wordXYN_toNat, wordXYN_toNat] at h
  have := a.isLt; have := b.isLt; have := c.isLt; have := d.isLt
  have := a'.isLt; have := b'.isLt; have := c'.isLt; have := d'.isLt
  refine ⟨?_, ?_, ?_, ?_⟩ <;> apply BitVec.eq_of_toNat_eq <;> omega

/-- AND works nibble by nibble. -/
theorem wordXYN_and (a b c d a' b' c' d' : Nibble) :
    wordXYN a b c d &&& wordXYN a' b' c' d' = wordXYN (a &&& a') (b &&& b') (c &&& c') (d &&& d') := by
  show (a ++ b ++ c ++ d) &&& (a' ++ b' ++ c' ++ d') = (a &&& a') ++ (b &&& b') ++ (c &&& c') ++ (d &&& d')
  rw [BitVec.and_append, BitVec.and_append, BitVec.and_append]

@[simp] theorem fieldN1_wordXYN (a b c d : Nibble) : fieldN1 (wordXYN a b c d) = a :=
  (wordXYN_inj.mp (word_eq_nibbles (wordXYN a b c d))).1.symm

@[simp] theorem fieldX_wordXYN (a b c d : Nibble) : fieldX (wordXYN a b c d) = b :=
  (wordXYN_inj.mp (word_eq_nibbles (wordXYN a b c d))).2.1.symm

@[simp] theorem fieldY_wordXYN (a b c d : Nibble) : fieldY (wordXYN a b c d) = c :=
  (wordXYN_inj.mp (word_eq_nibbles (wordXYN a b c d))).2.2.1.symm

@[simp] theorem fieldN_wordXYN (a b c d : Nibble) : fieldN (wordXYN a b c d) = d :=
  (wordXYN_inj.mp (word_eq_nibbles (wordXYN a b c d))).2.2.2.symm

@[simp] theorem fieldN1_wordXK (k : Nibble) (x : Reg) (kk : Byte) : fieldN1 (wordXK k x kk) = k := by
  apply BitVec.eq_of_toNat_eq
  rw [fieldN1_toNat, wordXK_toNat]
  omega

@[simp] theorem fieldX_wordXK (k : Nibble) (x : Reg) (kk : Byte) : fieldX (wordXK k x kk) = x := by
  apply BitVec.eq_of_toNat_eq
  rw [fieldX_toNat, wordXK_toNat]
  omega

@[simp] theorem fieldKk_wordXK (k : Nibble) (x : Reg) (kk : Byte) : fieldKk (wordXK k x kk) = kk := by
  apply BitVec.eq_of_toNat_eq
  rw [fieldKk_toNat, wordXK_toNat]
  omega

/-- The last nibble of a word of format `XK` is that of its low byte. -/
theorem fieldN_wordXK_toNat (k : Nibble) (x : Reg) (kk : Byte) : (fieldN (wordXK k x kk)).toNat = kk.toNat % 16 := by
  rw [fieldN_toNat, wordXK_toNat]
  omega

@[simp] theorem fieldN1_wordA (k : Nibble) (nnn : Addr) : fieldN1 (wordA k nnn) = k := by
  apply BitVec.eq_of_toNat_eq
  rw [fieldN1_toNat, wordA_toNat]
  omega

@[simp] theorem fieldNnn_wordA (k : Nibble) (nnn : Addr) : fieldNnn (wordA k nnn) = nnn := by
  apply BitVec.eq_of_toNat_eq
  rw [fieldNnn_toNat, wordA_toNat]
  omega

end Sys2Proof
end

