-- ==== Sys2Proof/Laws/PerInstr.lean ====
section
/-! SUPPORT. The family `OwnRow`: the canonical word of an instruction lies in the instruction's own row of the opcode map
(spec/30_encoding.md rule R50): its selecting bits have the row's match value. -/

namespace Sys2Proof

/-- The canonical word matches its own row. -/
def Laws.OwnRow.Statement (i : Instr) : Prop := encode i &&& opcodeMask i = opcodeMatch i

/-- The row of a word of format `A`. -/
theorem ownRow_A (k : Nibble) (nnn : Addr) : wordA k nnn &&& 0xF000#16 = wordXYN k 0#4 0#4 0#4 := by
  rw [word_eq_nibbles (wordA k nnn), fieldN1_wordA, show (0xF000#16 : Word) = wordXYN 15#4 0#4 0#4 0#4 from rfl, wordXYN_and]
  simp only [BitVec.and_zero, show (15#4 : Nibble) = BitVec.allOnes 4 from rfl, BitVec.and_allOnes]

/-- The row of a word of format `XK`. -/
theorem ownRow_XK (k : Nibble) (x : Reg) (kk : Byte) : wordXK k x kk &&& 0xF000#16 = wordXYN k 0#4 0#4 0#4 := by
  rw [word_eq_nibbles (wordXK k x kk), fieldN1_wordXK, show (0xF000#16 : Word) = wordXYN 15#4 0#4 0#4 0#4 from rfl, wordXYN_and]
  simp only [BitVec.and_zero, show (15#4 : Nibble) = BitVec.allOnes 4 from rfl, BitVec.and_allOnes]

/-- The row of a word of format `XS8`. -/
theorem ownRow_XS8 (k : Nibble) (x : Reg) (kk : Byte) : wordXK k x kk &&& 0xF0FF#16 = wordXK k 0#4 kk := by
  show (k ++ x ++ kk) &&& (15#4 ++ 0#4 ++ 255#8) = k ++ 0#4 ++ kk
  rw [BitVec.and_append, BitVec.and_append, BitVec.and_zero, show (15#4 : Nibble) = BitVec.allOnes 4 from rfl,
    show (255#8 : Byte) = BitVec.allOnes 8 from rfl, BitVec.and_allOnes, BitVec.and_allOnes]

/-- The row of a word whose first and last nibbles select. -/
theorem ownRow_XYS (k : Nibble) (x y : Reg) (n : Nibble) : wordXYN k x y n &&& 0xF00F#16 = wordXYN k 0#4 0#4 n := by
  rw [show (0xF00F#16 : Word) = wordXYN 15#4 0#4 0#4 15#4 from rfl, wordXYN_and]
  simp only [BitVec.and_zero, show (15#4 : Nibble) = BitVec.allOnes 4 from rfl, BitVec.and_allOnes]

/-- The row of a word of four nibbles whose first nibble selects. -/
theorem ownRow_XYZ (k : Nibble) (x y : Reg) (n : Nibble) : wordXYN k x y n &&& 0xF000#16 = wordXYN k 0#4 0#4 0#4 := by
  rw [show (0xF000#16 : Word) = wordXYN 15#4 0#4 0#4 0#4 from rfl, wordXYN_and]
  simp only [BitVec.and_zero, show (15#4 : Nibble) = BitVec.allOnes 4 from rfl, BitVec.and_allOnes]

/-- The row of a canonical word of format `XS4`, written with its low byte. -/
theorem ownRow_XS4 (k : Nibble) (x : Reg) (a b : Nibble) :
    wordXK k x (a ++ b) &&& 0xF00F#16 = wordXYN k 0#4 0#4 b := by
  have h : wordXK k x (a ++ b) = wordXYN k x a b := by
    apply BitVec.eq_of_toNat_eq
    rw [wordXK_toNat, wordXYN_toNat, toNat_append]
    omega
  rw [h, ownRow_XYS]

namespace Laws.OwnRow

theorem cls : Statement (.cls) := rfl
theorem ret : Statement (.ret) := rfl
theorem jpAddr (nnn : Addr) : Statement (.jpAddr nnn) := ownRow_A _ nnn
theorem callAddr (nnn : Addr) : Statement (.callAddr nnn) := ownRow_A _ nnn
theorem seVxByte (x : Reg) (kk : Byte) : Statement (.seVxByte x kk) := ownRow_XK _ x kk
theorem sneVxByte (x : Reg) (kk : Byte) : Statement (.sneVxByte x kk) := ownRow_XK _ x kk
theorem seVxVy (x y : Reg) : Statement (.seVxVy x y) := ownRow_XYZ _ x y _
theorem ldVxByte (x : Reg) (kk : Byte) : Statement (.ldVxByte x kk) := ownRow_XK _ x kk
theorem addVxByte (x : Reg) (kk : Byte) : Statement (.addVxByte x kk) := ownRow_XK _ x kk
theorem ldVxVy (x y : Reg) : Statement (.ldVxVy x y) := ownRow_XYS _ x y _
theorem orVxVy (x y : Reg) : Statement (.orVxVy x y) := ownRow_XYS _ x y _
theorem andVxVy (x y : Reg) : Statement (.andVxVy x y) := ownRow_XYS _ x y _
theorem xorVxVy (x y : Reg) : Statement (.xorVxVy x y) := ownRow_XYS _ x y _
theorem addVxVy (x y : Reg) : Statement (.addVxVy x y) := ownRow_XYS _ x y _
theorem subVxVy (x y : Reg) : Statement (.subVxVy x y) := ownRow_XYS _ x y _
theorem shrVx (x : Reg) : Statement (.shrVx x) := ownRow_XYS _ x _ _
theorem subnVxVy (x y : Reg) : Statement (.subnVxVy x y) := ownRow_XYS _ x y _
theorem shlVx (x : Reg) : Statement (.shlVx x) := ownRow_XYS _ x _ _
theorem sneVxVy (x y : Reg) : Statement (.sneVxVy x y) := ownRow_XYZ _ x y _
theorem ldIAddr (nnn : Addr) : Statement (.ldIAddr nnn) := ownRow_A _ nnn
theorem jpV0Addr (nnn : Addr) : Statement (.jpV0Addr nnn) := ownRow_A _ nnn
theorem rndVxByte (x : Reg) (kk : Byte) : Statement (.rndVxByte x kk) := ownRow_XK _ x kk
theorem drwVxVyN (x y : Reg) (n : Nat) : Statement (.drwVxVyN x y n) := ownRow_XYZ _ x y _
theorem skpVx (x : Reg) : Statement (.skpVx x) := ownRow_XS4 _ x 9#4 14#4
theorem sknpVx (x : Reg) : Statement (.sknpVx x) := ownRow_XS4 _ x 10#4 1#4
theorem ldVxDt (x : Reg) : Statement (.ldVxDt x) := ownRow_XS8 _ x _
theorem ldVxK (x : Reg) : Statement (.ldVxK x) := ownRow_XS8 _ x _
theorem ldDtVx (x : Reg) : Statement (.ldDtVx x) := ownRow_XS8 _ x _
theorem ldStVx (x : Reg) : Statement (.ldStVx x) := ownRow_XS8 _ x _
theorem addIVx (x : Reg) : Statement (.addIVx x) := ownRow_XS8 _ x _
theorem ldFVx (x : Reg) : Statement (.ldFVx x) := ownRow_XS8 _ x _
theorem ldBVx (x : Reg) : Statement (.ldBVx x) := ownRow_XS8 _ x _
theorem ldMemVx (x : Reg) : Statement (.ldMemVx x) := ownRow_XS8 _ x _
theorem ldVxMem (x : Reg) : Statement (.ldVxMem x) := ownRow_XS8 _ x _

end Laws.OwnRow

end Sys2Proof
end

