-- ==== Sys2Proof/Laws/Safety.lean ====
section
/-! SUPPORT. The terms of Safety.lean: raising a fault is a fault entry, and frames compose and widen. -/

namespace Sys2Proof.Machine

/-- Raising a fault writes the latch and the outputs and nothing else. -/
theorem raise_takesFault (f : Fault) (s : State) {code : BitVec 3} {info : Word} (hc : faultCodeOf f = code)
    (hi : faultInfoOf f = info) : TakesFault code info s (raise f s) := by
  refine ⟨_, rfl, hc, rfl, hi, rfl, rfl, fun p hp => ?_⟩
  cases p <;> simp_all [Part.Same]

/-- `fault_info` of an out-of-range access at a base that is a 16-bit value: no saturation takes place. -/
theorem faultInfo_memory (w : Word) :
    faultInfoOf (.memoryOutOfRange (max w.toNat 4096)) = BitVec.ofNat 16 (max w.toNat 4096) := by
  have := w.isLt
  simp only [faultInfoOf, saturate16]
  congr 1
  omega

/-- A part that is the same is the same through a second change that keeps it. -/
theorem Part.Same.trans {p : Part} {s t u : State} (h1 : p.Same s t) (h2 : p.Same t u) : p.Same s u := by
  cases p <;> simp_all [Part.Same]

theorem Part.Same.rfl {p : Part} {s : State} : p.Same s s := by
  cases p <;> simp [Part.Same]

/-- A frame holds with more parts written. -/
theorem Unchanged.mono {written written' : Part → Prop} {s t : State} (h : Unchanged written s t)
    (hw : ∀ p, written p → written' p) : Unchanged written' s t :=
  fun p hp => h p fun hp' => hp (hw p hp')

/-- Two changes one after the other write what either writes. -/
theorem Unchanged.trans {written written' : Part → Prop} {s t u : State} (h1 : Unchanged written s t)
    (h2 : Unchanged written' t u) : Unchanged (fun p => written p ∨ written' p) s u :=
  fun p hp => (h1 p fun h => hp (.inl h)).trans (h2 p fun h => hp (.inr h))

end Sys2Proof.Machine
end

