-- ==== Sys2Proof/Tests/Slice0.lean ====
section
/-! SUPPORT. The model's own tests: the encodings written out from spec/30_encoding.md rule R50, one or two vectors of
spec/95_test_vectors.md for each instruction, and for every statement with hypotheses a state that meets them. -/

namespace Sys2Proof.Machine.Tests

open Sys2Proof Sys2Proof.Machine

/-! ### Helpers -/

/-- The next state an answer holds; no answer of this model is anything else. -/
def after (r : Result) : State :=
  match r with
  | .next t => t
  | .fault _ => State.reset
  | .refused _ => State.reset

/-- Reset with the inputs of spec/95_test_vectors.md: `keys_in = 0`, `rnd_in = 0`. -/
def start : State := { State.reset with inputs := [⟨0#16, 0#8⟩] }

/-- The same with a key snapshot and a random byte. -/
def start' (keys : BitVec 16) (rnd : Byte) : State := { State.reset with inputs := [⟨keys, rnd⟩] }

/-- The state before the cycle: the word placed at `pc`. -/
def State.word (s : State) (w : Nat) : State := s.withFetchWord 16 w

/-- The state after one cycle that fetches the word. -/
def cycle (w : Nat) (s : State) : State := after (step (State.word s w))

/-- One more cycle with the inputs of `start`. -/
def again (s : State) : State := after (step { s with inputs := [⟨0#16, 0#8⟩] })

/-- One pixel turned. -/
def State.turn (p : Pixel) (s : State) : State := { s with display := Display.flip s.display p }

/-- Bytes placed in memory. -/
def State.bytes (a : Nat) (bs : List Byte) (s : State) : State := s.setMem (s.mem.writeBytes a bs)

/-! ### Syntax: the one check of WellFormed refuses what it should (spec/30_encoding.md rule R46: `n` has four bits) -/

theorem test_wellFormed_refuses_row_count_16 : (Instr.drwVxVyN 0#4 0#4 16).wellFormed = false := by decide

theorem test_wellFormed_accepts_row_count_15 : (Instr.drwVxVyN 0#4 0#4 15).wellFormed = true := by decide

/-! ### Decoding, one written word per constructor, from the format and match columns of rule R50 -/

theorem test_decode_cls : decodeWord 0x00E0#16 = some (.cls) := by decide
theorem test_decode_ret : decodeWord 0x00EE#16 = some (.ret) := by decide
theorem test_decode_jp : decodeWord 0x1536#16 = some (.jpAddr 0x536#12) := by decide
theorem test_decode_call : decodeWord 0x2ABC#16 = some (.callAddr 0xABC#12) := by decide
theorem test_decode_se_byte : decodeWord 0x332A#16 = some (.seVxByte 3#4 0x2A#8) := by decide
theorem test_decode_sne_byte : decodeWord 0x432B#16 = some (.sneVxByte 3#4 0x2B#8) := by decide
theorem test_decode_se_reg : decodeWord 0x512F#16 = some (.seVxVy 1#4 2#4) := by decide
theorem test_decode_ld_byte : decodeWord 0x6A03#16 = some (.ldVxByte 0xA#4 0x03#8) := by decide
theorem test_decode_add_byte : decodeWord 0x7220#16 = some (.addVxByte 2#4 0x20#8) := by decide
theorem test_decode_ld_reg : decodeWord 0x8340#16 = some (.ldVxVy 3#4 4#4) := by decide
theorem test_decode_or : decodeWord 0x8121#16 = some (.orVxVy 1#4 2#4) := by decide
theorem test_decode_and : decodeWord 0x8122#16 = some (.andVxVy 1#4 2#4) := by decide
theorem test_decode_xor : decodeWord 0x8123#16 = some (.xorVxVy 1#4 2#4) := by decide
theorem test_decode_add_reg : decodeWord 0x8F14#16 = some (.addVxVy 0xF#4 1#4) := by decide
theorem test_decode_sub : decodeWord 0x8125#16 = some (.subVxVy 1#4 2#4) := by decide
theorem test_decode_shr : decodeWord 0x8126#16 = some (.shrVx 1#4) := by decide
theorem test_decode_subn : decodeWord 0x8127#16 = some (.subnVxVy 1#4 2#4) := by decide
theorem test_decode_shl : decodeWord 0x812E#16 = some (.shlVx 1#4) := by decide
theorem test_decode_sne_reg : decodeWord 0x9125#16 = some (.sneVxVy 1#4 2#4) := by decide
theorem test_decode_ld_i : decodeWord 0xA300#16 = some (.ldIAddr 0x300#12) := by decide
theorem test_decode_jp_v0 : decodeWord 0xBFFF#16 = some (.jpV0Addr 0xFFF#12) := by decide
theorem test_decode_rnd : decodeWord 0xC30F#16 = some (.rndVxByte 3#4 0x0F#8) := by decide
theorem test_decode_drw : decodeWord 0xDF21#16 = some (.drwVxVyN 0xF#4 2#4 1) := by decide
theorem test_decode_skp : decodeWord 0xE49E#16 = some (.skpVx 4#4) := by decide
theorem test_decode_sknp : decodeWord 0xE4A1#16 = some (.sknpVx 4#4) := by decide
theorem test_decode_ld_vx_dt : decodeWord 0xF307#16 = some (.ldVxDt 3#4) := by decide
theorem test_decode_ld_vx_k : decodeWord 0xF50A#16 = some (.ldVxK 5#4) := by decide
theorem test_decode_ld_dt_vx : decodeWord 0xF315#16 = some (.ldDtVx 3#4) := by decide
theorem test_decode_ld_st_vx : decodeWord 0xFA18#16 = some (.ldStVx 0xA#4) := by decide
theorem test_decode_add_i : decodeWord 0xF11E#16 = some (.addIVx 1#4) := by decide
theorem test_decode_ld_f : decodeWord 0xF229#16 = some (.ldFVx 2#4) := by decide
theorem test_decode_ld_b : decodeWord 0xF333#16 = some (.ldBVx 3#4) := by decide
theorem test_decode_ld_mem : decodeWord 0xF255#16 = some (.ldMemVx 2#4) := by decide
theorem test_decode_ld_from_mem : decodeWord 0xF465#16 = some (.ldVxMem 4#4) := by decide

/-- Unknown words of rule R52 (spec/95_test_vectors.md section 2.1). -/
theorem test_decode_unknown :
    [0x0001#16, 0x00E1#16, 0x0FFF#16, 0x8008#16, 0x800F#16, 0xE000#16, 0xE09F#16, 0xF000#16, 0xF0FF#16, 0xF166#16].all
      (fun w => decide (decodeWord w = none)) = true := by decide

/-- The canonical words of rule R51 for the rows with ignored nibbles. -/
theorem test_encode_canonical :
    [Instr.cls, .ret, .seVxVy 1#4 2#4, .sneVxVy 1#4 2#4, .shrVx 1#4, .shlVx 1#4, .skpVx 4#4, .sknpVx 4#4].map encode =
      [0x00E0#16, 0x00EE#16, 0x5120#16, 0x9120#16, 0x8106#16, 0x810E#16, 0xE49E#16, 0xE4A1#16] := by decide

/-- The host's numbering: the first word is the whole instruction. -/
theorem test_decodeTableWord : decodeTableWord 16 0xD122 = some (.drwVxVyN 1#4 2#4 2) := by decide

/-! ### Memory and reset (spec/10_state.md rule R25, spec/20_memory.md rule R36) -/

theorem test_reset_memory_canonical : State.reset.mem.wf = true := by decide

theorem test_reset_pc_and_sp : State.reset.pc = 0x0200#16 ∧ State.reset.sp = 0#4 := by decide

/-- E12: glyph bytes, zeros around the image, the image at 0x200. -/
theorem test_reset_image : [0x000, 0x004, 0x04F, 0x050, 0x1FF, 0x200, 0x201, 0x202, 0xFFF].map
    (State.readByte (State.resetWith [0x12#8, 0x34#8])) = [0xF0#8, 0xF0#8, 0x80#8, 0#8, 0#8, 0x12#8, 0x34#8, 0#8, 0#8] := by
  decide

/-- Writing the reset value back removes the entry: equal memories are equal lists. -/
theorem test_write_back_is_canonical :
    ((State.reset.mem.write 0x300 1#8).write 0x001 0#8 |>.write 0x300 0#8 |>.write 0x001 0x90#8) = [] := by decide

/-! ### The cycle (spec/95_test_vectors.md section 2.1) -/

/-- T1: high byte first. -/
theorem test_fetch_high_byte_first : (cycle 0x6155 start).getV 1#4 = 0x55#8 ∧ (cycle 0x6155 start).pc = 0x0202#16 := by decide

/-- T3: a fetch at 4094 succeeds, the next one faults. -/
theorem test_fetch_runs_off_the_end :
    (cycle 0x6155 (start.setPc 0x0FFE#16)).pc = 0x1000#16 ∧
    (again (cycle 0x6155 (start.setPc 0x0FFE#16))).faultCode = 4#3 ∧
    (again (cycle 0x6155 (start.setPc 0x0FFE#16))).faultInfo = 0x1000#16 := by decide

/-- T4. -/
theorem test_fetch_at_4095 : (again (start.setPc 0x0FFF#16)).faultCode = 4#3 ∧ (again (start.setPc 0x0FFF#16)).faultPc = 0x0FFF#16 ∧
    (again (start.setPc 0x0FFF#16)).faultInfo = 0x1000#16 := by decide

/-- T5. -/
theorem test_timers_tick : (cycle 0x6000 ((start.setDt 5#8).setSt 1#8)).dt = 4#8 ∧
    (cycle 0x6000 ((start.setDt 5#8).setSt 1#8)).st = 0#8 ∧
    (cycle 0x6000 ((start.setDt 5#8).setSt 1#8)).toneActive = true := by decide

/-- E9: no key, then keys 7 and 9 down. -/
theorem test_wait_persists : after (step { start.setWait 5#4 with dt := 9#8 }) =
    { start.setWait 5#4 with dt := 9#8, inputs := [], inputCount := 1 } := by decide

theorem test_wait_takes_lowest_key :
    (after (step { (start' 0x0280#16 0#8).setWait 5#4 with dt := 9#8 })).getV 5#4 = 7#8 ∧
    (after (step { (start' 0x0280#16 0#8).setWait 5#4 with dt := 9#8 })).waiting = false ∧
    (after (step { (start' 0x0280#16 0#8).setWait 5#4 with dt := 9#8 })).dt = 9#8 := by decide

/-- T162. -/
theorem test_reset_long_image : (State.resetWith (List.replicate 3585 0x12#8)).faultCode = 6#3 ∧
    (State.resetWith (List.replicate 3585 0x12#8)).faultPc = 0x0200#16 ∧
    (State.resetWith (List.replicate 3585 0x12#8)).faultInfo = 3585#16 := by
  have h : State.resetWith (List.replicate 3585 0x12#8) = State.reset.takeFault (.programTooLong 3585) := by
    rw [State.resetWith, List.length_replicate, if_neg (by decide)]
  rw [h]
  decide

/-! ### One or two vectors per instruction (spec/95_test_vectors.md sections 2.2 to 2.6) -/

/-- T27. -/
theorem test_ret : (cycle 0x00EE ({ start with sp := 1#4, stack := start.stack.set 1 0x0204#16, pc := 0x020A#16 })).pc = 0x0206#16 ∧
    (cycle 0x00EE ({ start with sp := 1#4, stack := start.stack.set 1 0x0204#16, pc := 0x020A#16 })).sp = 0#4 := by decide

/-- T28. -/
theorem test_ret_underflow : (cycle 0x00EE (start)).faultCode = 2#3 ∧
    (cycle 0x00EE (start)).faultPc = 0x0200#16 ∧
    (cycle 0x00EE (start)).pc = 0x0200#16 := by decide

/-- E10, both levels. -/
theorem test_jp : (after (exec (.jpAddr 0x536#12) start)).pc = 0x0534#16 ∧
    (cycle 0x1536 (start)).pc = 0x0536#16 := by decide

/-- T22. -/
theorem test_jp_zero : (after (exec (.jpAddr 0#12) start)).pc = 0xFFFE#16 ∧
    (cycle 0x1000 (start)).pc = 0#16 := by decide

/-- T25. -/
theorem test_call : (cycle 0x2ABC ({ start with sp := 3#4, pc := 0x0456#16 })).sp = 4#4 ∧
    (cycle 0x2ABC ({ start with sp := 3#4, pc := 0x0456#16 })).slot 4#4 = 0x0456#16 ∧
    (cycle 0x2ABC ({ start with sp := 3#4, pc := 0x0456#16 })).pc = 0x0ABC#16 := by decide

/-- T26. -/
theorem test_call_overflow : (cycle 0x2ABC ({ start with sp := 15#4, pc := 0x0456#16 })).faultCode = 3#3 ∧
    (cycle 0x2ABC ({ start with sp := 15#4, pc := 0x0456#16 })).faultPc = 0x0456#16 ∧
    (cycle 0x2ABC ({ start with sp := 15#4, pc := 0x0456#16 })).sp = 15#4 := by decide

/-- T29 and T30. -/
theorem test_se_byte : (cycle 0x332A ((start.setV 3#4 0x2A#8).setPc 0x0210#16)).pc = 0x0214#16 ∧
    (cycle 0x332B ((start.setV 3#4 0x2A#8).setPc 0x0210#16)).pc = 0x0212#16 := by decide

/-- T31 and T32. -/
theorem test_sne_byte : (cycle 0x432A ((start.setV 3#4 0x2A#8).setPc 0x0210#16)).pc = 0x0212#16 ∧
    (cycle 0x432B ((start.setV 3#4 0x2A#8).setPc 0x0210#16)).pc = 0x0214#16 := by decide

/-- T35 and its opposite. -/
theorem test_se_reg : (cycle 0x512F (((start.setV 1#4 7#8).setV 2#4 7#8).setPc 0x0300#16)).pc = 0x0304#16 ∧
    (cycle 0x5120 (((start.setV 1#4 7#8).setV 2#4 8#8).setPc 0x0300#16)).pc = 0x0302#16 := by decide

/-- T36 and T37. -/
theorem test_sne_reg : (cycle 0x9120 (((start.setV 1#4 7#8).setV 2#4 8#8).setPc 0x0300#16)).pc = 0x0304#16 ∧
    (cycle 0x9125 (((start.setV 1#4 7#8).setV 2#4 7#8).setPc 0x0300#16)).pc = 0x0302#16 := by decide

/-- T38 and T39. -/
theorem test_jp_v0 : (cycle 0xB300 (start.setV 0#4 4#8)).pc = 0x0306#16 ∧
    (cycle 0xBFFF (start.setV 0#4 0xFF#8)).pc = 0x1100#16 := by decide

/-- T50. -/
theorem test_ld_byte : (cycle 0x6A03 (start)).getV 10#4 = 0x03#8 := by decide

/-- T54. -/
theorem test_add_byte : (cycle 0x7201 (start.setV 2#4 0xFF#8)).getV 2#4 = 0x00#8 ∧
    (cycle 0x7201 (start.setV 2#4 0xFF#8)).getV flagReg = 1#8 := by decide

/-- T57 and T58. -/
theorem test_add_byte_vf : (cycle 0x7F01 (start.setV flagReg 0xFF#8)).getV flagReg = 1#8 ∧
    (cycle 0x7F01 (start.setV flagReg 0x10#8)).getV flagReg = 0#8 := by decide

/-- T59. -/
theorem test_ld_reg : (cycle 0x8340 (start.setV 4#4 0x99#8)).getV 3#4 = 0x99#8 := by decide

/-- T60. -/
theorem test_or : (cycle 0x8121 (((start.setV 1#4 0x0F#8).setV 2#4 0xF0#8).setV flagReg 0x55#8)).getV 1#4 = 0xFF#8 ∧
    (cycle 0x8121 (((start.setV 1#4 0x0F#8).setV 2#4 0xF0#8).setV flagReg 0x55#8)).getV flagReg = 0x55#8 := by decide

/-- T61. -/
theorem test_and : (cycle 0x8122 (((start.setV 1#4 0x3C#8).setV 2#4 0x0F#8).setV flagReg 0x55#8)).getV 1#4 = 0x0C#8 ∧
    (cycle 0x8122 (((start.setV 1#4 0x3C#8).setV 2#4 0x0F#8).setV flagReg 0x55#8)).getV flagReg = 0x55#8 := by decide

/-- T62. -/
theorem test_xor : (cycle 0x8123 (((start.setV 1#4 0xFF#8).setV 2#4 0x0F#8).setV flagReg 0x55#8)).getV 1#4 = 0xF0#8 ∧
    (cycle 0x8123 (((start.setV 1#4 0xFF#8).setV 2#4 0x0F#8).setV flagReg 0x55#8)).getV flagReg = 0x55#8 := by decide

/-- T64. -/
theorem test_add_reg : (cycle 0x8124 ((start.setV 1#4 0xC8#8).setV 2#4 0x64#8)).getV 1#4 = 0x2C#8 ∧
    (cycle 0x8124 ((start.setV 1#4 0xC8#8).setV 2#4 0x64#8)).getV flagReg = 1#8 := by decide

/-- T68. -/
theorem test_add_reg_old_vf : (cycle 0x81F4 ((start.setV 1#4 0xFF#8).setV flagReg 1#8)).getV 1#4 = 0x00#8 ∧
    (cycle 0x81F4 ((start.setV 1#4 0xFF#8).setV flagReg 1#8)).getV flagReg = 1#8 := by decide

/-- E2, borrow. -/
theorem test_sub : (cycle 0x8125 ((start.setV 1#4 0x03#8).setV 2#4 0x05#8)).getV 1#4 = 0xFE#8 ∧
    (cycle 0x8125 ((start.setV 1#4 0x03#8).setV 2#4 0x05#8)).getV flagReg = 0#8 := by decide

/-- T71. -/
theorem test_sub_equal : (cycle 0x8125 ((start.setV 1#4 0x44#8).setV 2#4 0x44#8)).getV 1#4 = 0x00#8 ∧
    (cycle 0x8125 ((start.setV 1#4 0x44#8).setV 2#4 0x44#8)).getV flagReg = 1#8 := by decide

/-- T75. -/
theorem test_shr : (cycle 0x8126 ((start.setV 1#4 0x3E#8).setV 2#4 0xFF#8)).getV 1#4 = 0x1F#8 ∧
    (cycle 0x8126 ((start.setV 1#4 0x3E#8).setV 2#4 0xFF#8)).getV flagReg = 0#8 := by decide

/-- T77. -/
theorem test_shr_vf : (cycle 0x8F06 (start.setV flagReg 7#8)).getV flagReg = 3#8 := by decide

/-- T78. -/
theorem test_subn : (cycle 0x8127 ((start.setV 1#4 0x05#8).setV 2#4 0x03#8)).getV 1#4 = 0xFE#8 ∧
    (cycle 0x8127 ((start.setV 1#4 0x05#8).setV 2#4 0x03#8)).getV flagReg = 0#8 := by decide

/-- T79. -/
theorem test_subn_no_borrow : (cycle 0x8127 ((start.setV 1#4 0x03#8).setV 2#4 0x05#8)).getV 1#4 = 0x02#8 ∧
    (cycle 0x8127 ((start.setV 1#4 0x03#8).setV 2#4 0x05#8)).getV flagReg = 1#8 := by decide

/-- T81. -/
theorem test_shl : (cycle 0x810E (start.setV 1#4 0x85#8)).getV 1#4 = 0x0A#8 ∧
    (cycle 0x810E (start.setV 1#4 0x85#8)).getV flagReg = 1#8 := by decide

/-- T82. -/
theorem test_shl_vf : (cycle 0x8F0E (start.setV flagReg 0x81#8)).getV flagReg = 2#8 := by decide

/-- T83. -/
theorem test_rnd : (cycle 0xC30F (start' 0#16 0xB7#8)).getV 3#4 = 0x07#8 := by decide

/-- T90. -/
theorem test_ld_i : (cycle 0xA300 (start)).regI = 0x0300#16 := by decide

/-- T91 and T92. -/
theorem test_add_i : (cycle 0xF11E ((start.setI 0x0FFE#16).setV 1#4 5#8)).regI = 0x1003#16 ∧
    (cycle 0xF11E ((start.setI 0xFFFF#16).setV 1#4 2#8)).regI = 1#16 := by decide

/-- T93 and T94. -/
theorem test_ld_f : (cycle 0xF229 (start.setV 2#4 0x0A#8)).regI = 0x0032#16 ∧
    (cycle 0xF229 (start.setV 2#4 0xFF#8)).regI = 0x04FB#16 := by decide

/-- E7. -/
theorem test_bcd : [0x50, 0x51, 0x52, 0x53].map (State.readByte (cycle 0xF333 ((start.setI 0x0050#16).setV 3#4 0x88#8))) = [1#8, 3#8, 6#8, 0#8] := by decide

/-- T99. -/
theorem test_bcd_faults_whole : (cycle 0xF333 ((start.setI 0x0FFE#16).setV 3#4 0xFF#8)).faultCode = 4#3 ∧
    (cycle 0xF333 ((start.setI 0x0FFE#16).setV 3#4 0xFF#8)).faultInfo = 0x1000#16 ∧
    (cycle 0xF333 ((start.setI 0x0FFE#16).setV 3#4 0xFF#8)).readByte 0xFFE = 0#8 := by decide

/-- T101. -/
theorem test_store_registers : [0x400, 0x401, 0x402, 0x403].map (State.readByte (cycle 0xF255 (((((start.setI 0x0400#16).setV 0#4 0x11#8).setV 1#4 0x22#8).setV 2#4 0x33#8).setV 3#4 0x44#8))) = [0x11#8, 0x22#8, 0x33#8, 0#8] ∧
    (cycle 0xF255 (((((start.setI 0x0400#16).setV 0#4 0x11#8).setV 1#4 0x22#8).setV 2#4 0x33#8).setV 3#4 0x44#8)).regI = 0x0400#16 := by decide

/-- T102 and T103. -/
theorem test_store_registers_at_the_end : (cycle 0xFF55 (start.setI 0x0FF0#16)).faultCode = 0#3 ∧
    (cycle 0xFF55 ((start.setI 0x0FF1#16).setV 0#4 1#8)).faultCode = 4#3 ∧
    (cycle 0xFF55 ((start.setI 0x0FF1#16).setV 0#4 1#8)).readByte 0xFF1 = 0#8 := by decide

/-- T104. -/
theorem test_load_registers : [0#4, 1#4, 2#4, 3#4, 4#4, 5#4].map (State.getV (cycle 0xF465 (start.setV 5#4 0x77#8))) = [0xF0#8, 0x90#8, 0x90#8, 0x90#8, 0xF0#8, 0x77#8] := by decide

/-- T106. -/
theorem test_load_registers_faults : (cycle 0xF065 ((start.setI 0x1000#16).setV 0#4 9#8)).faultCode = 4#3 ∧
    (cycle 0xF065 ((start.setI 0x1000#16).setV 0#4 9#8)).faultInfo = 0x1000#16 ∧
    (cycle 0xF065 ((start.setI 0x1000#16).setV 0#4 9#8)).getV 0#4 = 9#8 := by decide

/-- T110, the two pixels. -/
theorem test_cls : (cycle 0x00E0 (State.turn 2047 (State.turn 7 start))).pixel 7 = false ∧
    (cycle 0x00E0 (State.turn 2047 (State.turn 7 start))).pixel 2047 = false ∧
    (cycle 0x00E0 (State.turn 2047 (State.turn 7 start))).redrawNeeded = true := by decide

/-- T114. -/
theorem test_drw_wraps_linearly : [2045, 2046, 2047, 0, 5, 6, 1984].map (State.pixel (cycle 0xD121 (State.bytes 0x300 [0xFF#8] (((start.setI 0x0300#16).setV 1#4 62#8).setV 2#4 31#8)))) = [false, true, true, true, true, false, false] ∧
    (cycle 0xD121 (State.bytes 0x300 [0xFF#8] (((start.setI 0x0300#16).setV 1#4 62#8).setV 2#4 31#8))).getV flagReg = 0#8 := by decide

/-- T113. -/
theorem test_drw_collides : [330, 331, 394, 395].map (State.pixel (cycle 0xD122 (State.turn 331 (State.bytes 0x300 [0xC0#8, 0xC0#8] (((start.setI 0x0300#16).setV 1#4 10#8).setV 2#4 5#8))))) = [true, false, true, true] ∧
    (cycle 0xD122 (State.turn 331 (State.bytes 0x300 [0xC0#8, 0xC0#8] (((start.setI 0x0300#16).setV 1#4 10#8).setV 2#4 5#8)))).getV flagReg = 1#8 := by decide

/-- T130 and T131. -/
theorem test_skp : (cycle 0xE49E (((start' 0x0080#16 0#8).setV 4#4 7#8).setPc 0x0220#16)).pc = 0x0224#16 ∧
    (cycle 0xE49E (((start' 0xFF7F#16 0#8).setV 4#4 7#8).setPc 0x0220#16)).pc = 0x0222#16 := by decide

/-- T134. -/
theorem test_skp_faults : (cycle 0xE49E ((((start' 0xFFFF#16 0#8).setV 4#4 0x10#8).setPc 0x0220#16).setKeypad 0x1234#16)).faultCode = 5#3 ∧
    (cycle 0xE49E ((((start' 0xFFFF#16 0#8).setV 4#4 0x10#8).setPc 0x0220#16).setKeypad 0x1234#16)).faultInfo = 0x0010#16 ∧
    (cycle 0xE49E ((((start' 0xFFFF#16 0#8).setV 4#4 0x10#8).setPc 0x0220#16).setKeypad 0x1234#16)).keypad = 0x1234#16 := by decide

/-- T132 and T133. -/
theorem test_sknp : (cycle 0xE4A1 (((start' 0x0080#16 0#8).setV 4#4 7#8).setPc 0x0220#16)).pc = 0x0222#16 ∧
    (cycle 0xE4A1 (((start' 0x0000#16 0#8).setV 4#4 7#8).setPc 0x0220#16)).pc = 0x0224#16 := by decide

/-- T135. -/
theorem test_sknp_faults : (cycle 0xE4A1 (((start' 0#16 0#8).setV 4#4 0x17#8).setPc 0x0220#16)).faultCode = 5#3 ∧
    (cycle 0xE4A1 (((start' 0#16 0#8).setV 4#4 0x17#8).setPc 0x0220#16)).faultInfo = 0x0017#16 := by decide

/-- T137. -/
theorem test_ld_vx_dt : (cycle 0xF307 (start.setDt 0x2A#8)).getV 3#4 = 0x2A#8 ∧
    (cycle 0xF307 (start.setDt 0x2A#8)).dt = 0x29#8 := by decide

/-- T144. -/
theorem test_ld_vx_k : (cycle 0xF50A { start' 1#16 0#8 with dt := 9#8, st := 4#8, pc := 0x020C#16 }).waiting = true ∧
    (cycle 0xF50A { start' 1#16 0#8 with dt := 9#8, st := 4#8, pc := 0x020C#16 }).waitReg = 5#4 ∧
    (cycle 0xF50A { start' 1#16 0#8 with dt := 9#8, st := 4#8, pc := 0x020C#16 }).pc = 0x020E#16 ∧
    (cycle 0xF50A { start' 1#16 0#8 with dt := 9#8, st := 4#8, pc := 0x020C#16 }).dt = 8#8 ∧
    (cycle 0xF50A { start' 1#16 0#8 with dt := 9#8, st := 4#8, pc := 0x020C#16 }).getV 5#4 = 0#8 := by decide

/-- T139 and T141. -/
theorem test_ld_dt_vx : (cycle 0xF315 (start.setV 3#4 0x3C#8)).dt = 0x3B#8 ∧
    (cycle 0xF315 (start.setV 3#4 1#8)).dt = 0#8 := by decide

/-- T142. -/
theorem test_ld_st_vx : (cycle 0xFA18 (start.setV 10#4 3#8)).st = 2#8 ∧
    (cycle 0xFA18 (start.setV 10#4 3#8)).toneActive = false ∧
    (again (cycle 0xFA18 (start.setV 10#4 3#8))).toneActive = true := by decide

/-! ### Witnesses: for every statement with hypotheses, states and operands that meet them, at the boundaries of each clause -/

/-- A state that fetches the word at an address. -/
def at' (a : Word) (w : Nat) : State := State.word (start.setPc a) w

/-- A waiting state with a key snapshot. -/
def waiting (keys : BitVec 16) : State := (start' keys 0#8).setWait 5#4

theorem test_witness_DecodeOfEncode :
    (Instr.drwVxVyN 15#4 15#4 15).wellFormed = true ∧
    (Instr.jpAddr 0xFFF#12).wellFormed = true := by decide

theorem test_witness_DecodedWordHasOneMeaning :
    decodeWord 0xFF65#16 = some (.ldVxMem 15#4) ∧
    decodeWord 0x0120#16 = some .cls := by decide

theorem test_witness_IgnoredBitsDoNotSelect :
    decodeWord 0x512F#16 = some (.seVxVy 1#4 2#4) ∧
    0x5120#16 &&& ~~~ignoredBits (.seVxVy 1#4 2#4) = 0x512F#16 &&& ~~~ignoredBits (.seVxVy 1#4 2#4) := by decide

/-- Every clause of the condition is met by a word, and a word that decodes meets none. -/
theorem test_witness_UnknownWordsExactly :
    decodeWord 0x0FF1#16 = none ∧
    decodeWord 0x800F#16 = none ∧
    decodeWord 0xE000#16 = none ∧
    decodeWord 0xF066#16 = none ∧
    decodeWord 0x00E0#16 ≠ none := by decide

theorem test_witness_StepRunsTheDecodedInstruction :
    (at' 0x0200#16 0x1536).Fetches 0x1536#16 ∧
    decodeWord 0x1536#16 = some (.jpAddr 0x536#12) ∧
    (at' 0x0FFE#16 0xFF65).Fetches 0xFF65#16 ∧
    decodeWord 0xFF65#16 = some (.ldVxMem 15#4) := by decide

theorem test_witness_FinishedCycleTicksAdvancesAndReports :
    start.NoFault ∧
    (start.setPc 0xFFFF#16).NoFault := by decide

/-- A cycle of an instruction and a wait cycle. -/
theorem test_witness_CycleLatchesKeysAndSamplesTone :
    (∃ u, step (at' 0x0200#16 0xFF65) = .next u ∧ u.NoFault) ∧
    ∃ u, step (waiting 0x0280#16) = .next u ∧ u.NoFault := ⟨⟨_, rfl, by decide⟩, _, rfl, by decide⟩

/-- A cycle that draws and one that does not. -/
theorem test_witness_RedrawReportedExactlyByDisplayInstructions :
    ((at' 0x0200#16 0xD121).redrawFlag = false ∧ ∃ u, step (at' 0x0200#16 0xD121) = .next u ∧ u.redrawNeeded = true) ∧
    ((at' 0x0200#16 0x6000).redrawFlag = false ∧ ∃ u, step (at' 0x0200#16 0x6000) = .next u ∧ u.redrawNeeded = false) := ⟨⟨by decide, _, rfl, by decide⟩, by decide, _, rfl, by decide⟩

theorem test_witness_KeyWaitTakesTheLowestPressedKey :
    ((waiting 0x0001#16).NoFault ∧ (waiting 0x0001#16).waiting = true ∧ (waiting 0x0001#16).keysIn.getLsbD 0 = true) ∧
    ((waiting 0x8000#16).keysIn.getLsbD 15 = true ∧ ∀ j < 15, (waiting 0x8000#16).keysIn.getLsbD j = false) ∧
    (waiting 0#16).keysIn = 0#16 := by decide

theorem test_witness_HaltIsSticky :
    ¬ (start.takeFault .stackOverflow).NoFault ∧
    ¬ (start.takeFault (.programTooLong 3585)).NoFault := by decide

theorem test_witness_FaultingCycleWritesOnlyTheLatch :
    start.NoFault ∧
    ∃ u, step (at' 0x0200#16 0xF166) = .next u ∧ ¬ u.NoFault := ⟨by decide, _, rfl, by decide⟩

theorem test_witness_FetchOutOfRangeFaults :
    ((start.setPc 4095#16).NoFault ∧ (start.setPc 4095#16).Running ∧ 4094 < (start.setPc 4095#16).pc.toNat) ∧
    ((start.setPc 0xFFFF#16).Running ∧ 4094 < (start.setPc 0xFFFF#16).pc.toNat) := by decide

theorem test_witness_UnknownWordHaltsTheCore :
    (at' 0x0FFE#16 0xF166).Fetches 0xF166#16 ∧
    decodeWord 0xF166#16 = none := by decide

theorem test_witness_EveryCycleKeepsTheInvariant :
    start.Inv ∧
    ∃ u, step (at' 0x0200#16 0xFF55) = .next u ∧ u.Inv := ⟨by decide, _, rfl, by decide⟩

theorem test_witness_ResetLoadsAFittingImage :
    ([] : List Byte).length ≤ 3584 ∧
    (List.replicate 3584 0x12#8).length ≤ 3584 := ⟨by decide, by rw [List.length_replicate]⟩

theorem test_witness_ResetRejectsALongImage :
    3584 < (List.replicate 3585 0x12#8).length := by rw [List.length_replicate]; decide

/-- A lit pixel cleared, and the flag set over a display that stays clear. -/
theorem test_witness_OnlyDisplayInstructionsWriteTheDisplay :
    (∃ t, exec .cls (State.turn 7 start) = .next t ∧ ¬ (Part.pixel 7).Same (State.turn 7 start) t) ∧
    ∃ t, exec (.drwVxVyN 0#4 0#4 0) start = .next t ∧ t.redrawFlag ≠ start.redrawFlag := ⟨⟨_, rfl, show ¬ (_ = _) by decide⟩, _, rfl, by decide⟩

theorem test_witness_OnlyStoresWriteMemory :
    (∃ t, exec (.ldMemVx 15#4) ((start.setI 0x0FF0#16).setV 15#4 1#8) = .next t ∧ t.readByte 0xFFF ≠ start.readByte 0xFFF) ∧
    ∃ t, exec (.ldBVx 3#4) ((start.setI 0x0300#16).setV 3#4 136#8) = .next t ∧ t.readByte 0x302 ≠ start.readByte 0x302 := ⟨⟨_, rfl, by decide⟩, _, rfl, by decide⟩

theorem test_witness_OnlyCallAndRetTouchTheStack :
    (∃ t, exec (.callAddr 0x300#12) start = .next t ∧ t.sp ≠ start.sp ∧ t.slot 1#4 ≠ start.slot 1#4) ∧
    ∃ t, exec .ret (start.setSp 15#4) = .next t ∧ t.sp ≠ 15#4 := ⟨⟨_, rfl, by decide⟩, _, rfl, by decide⟩

theorem test_witness_OnlyNamedInstructionsWriteIAndTimersAndWait :
    (∃ t, exec (.ldIAddr 0x300#12) start = .next t ∧ t.regI ≠ start.regI) ∧
    (∃ t, exec (.ldDtVx 1#4) (start.setV 1#4 5#8) = .next t ∧ t.dt ≠ start.dt) ∧
    (∃ t, exec (.ldStVx 1#4) (start.setV 1#4 5#8) = .next t ∧ t.st ≠ start.st) ∧
    ∃ t, exec (.ldVxK 1#4) start = .next t ∧ t.waiting ≠ start.waiting := ⟨⟨_, rfl, by decide⟩, ⟨_, rfl, by decide⟩, ⟨_, rfl, by decide⟩, _, rfl, by decide⟩

theorem test_witness_FlagRegisterChangedOnlyByFlagInstructions :
    (∃ t, exec (.addVxByte 2#4 1#8) (start.setV 2#4 0xFF#8) = .next t ∧ t.getV flagReg ≠ (start.setV 2#4 0xFF#8).getV flagReg) ∧
    ∃ t, exec (.ldVxMem 15#4) start = .next t ∧ t.getV flagReg ≠ start.getV flagReg := ⟨⟨_, rfl, by decide⟩, _, rfl, by decide⟩

theorem test_witness_RetPopsTheCallAddress :
    0x0FFE#16 &&& 0xF00F#16 = 0x000E#16 ∧
    (start.setSp 1#4).sp ≠ 0#4 ∧
    (start.setSp 15#4).sp ≠ 0#4 ∧
    start.sp = 0#4 ∧
    ((at' 0x0200#16 0x00EE).setSp 1#4).Fetches 0x00EE#16 := by decide

theorem test_witness_JpGoesToItsAddress :
    0x1FFF#16 &&& 0xF000#16 = 0x1000#16 ∧
    (at' 0x0200#16 0x1000).Fetches 0x1000#16 ∧
    (at' 0x0FFE#16 0x1FFF).Fetches 0x1FFF#16 := by decide

theorem test_witness_CallPushesItsOwnAddress :
    0x2FFF#16 &&& 0xF000#16 = 0x2000#16 ∧
    start.sp ≠ 15#4 ∧
    (start.setSp 14#4).sp ≠ 15#4 ∧
    (start.setSp 15#4).sp = 15#4 ∧
    (at' 0x0200#16 0x2ABC).Fetches 0x2ABC#16 := by decide

theorem test_witness_SkipIfRegisterEqualsByte :
    0x3300#16 &&& 0xF000#16 = 0x3000#16 ∧
    (at' 0x0FFE#16 0x3300).Fetches 0x3300#16 ∧
    (at' 0x0200#16 0x332B).Fetches 0x332B#16 := by decide

theorem test_witness_SkipIfRegisterDiffersFromByte :
    0x4300#16 &&& 0xF000#16 = 0x4000#16 ∧
    (at' 0x0FFE#16 0x4300).Fetches 0x4300#16 ∧
    (at' 0x0200#16 0x432B).Fetches 0x432B#16 := by decide

theorem test_witness_SkipIfRegistersEqual :
    0x5FFF#16 &&& 0xF000#16 = 0x5000#16 ∧
    (at' 0x0FFE#16 0x5FFF).Fetches 0x5FFF#16 ∧
    (at' 0x0200#16 0x5120).Fetches 0x5120#16 := by decide

theorem test_witness_SkipIfRegistersDiffer :
    0x9FFF#16 &&& 0xF000#16 = 0x9000#16 ∧
    (at' 0x0FFE#16 0x9FFF).Fetches 0x9FFF#16 ∧
    (at' 0x0200#16 0x9120).Fetches 0x9120#16 := by decide

theorem test_witness_JpV0LandsTwoBeyondTheSum :
    0xBFFF#16 &&& 0xF000#16 = 0xB000#16 ∧
    (at' 0x0200#16 0xBFFF).Fetches 0xBFFF#16 := by decide

theorem test_witness_LoadByteIntoRegister :
    0x6FFF#16 &&& 0xF000#16 = 0x6000#16 := by decide

theorem test_witness_AddByteSetsCarry :
    0x7FFF#16 &&& 0xF000#16 = 0x7000#16 ∧
    14#4 ≠ flagReg := by decide

theorem test_witness_CopyRegister :
    0x8FF0#16 &&& 0xF00F#16 = 0x8000#16 := by decide

theorem test_witness_OrIsBitwise :
    0x8FF1#16 &&& 0xF00F#16 = 0x8001#16 := by decide

theorem test_witness_SubSetsNotBorrow :
    0x8FF5#16 &&& 0xF00F#16 = 0x8005#16 ∧
    14#4 ≠ flagReg := by decide

theorem test_witness_SubnSetsNotBorrow :
    0x8FF7#16 &&& 0xF00F#16 = 0x8007#16 ∧
    14#4 ≠ flagReg := by decide

theorem test_witness_ShrShiftsOutTheLowBit :
    0x8FF6#16 &&& 0xF00F#16 = 0x8006#16 ∧
    14#4 ≠ flagReg := by decide

theorem test_witness_ShlShiftsOutTheHighBit :
    0x8FFE#16 &&& 0xF00F#16 = 0x800E#16 ∧
    14#4 ≠ flagReg := by decide

theorem test_witness_RndMasksTheRandomByte :
    0xCFFF#16 &&& 0xF000#16 = 0xC000#16 := by decide

theorem test_witness_LoadAddressIntoI :
    0xAFFF#16 &&& 0xF000#16 = 0xA000#16 := by decide

theorem test_witness_AddRegisterToIWraps :
    0xFF1E#16 &&& 0xF0FF#16 = 0xF01E#16 := by decide

theorem test_witness_GlyphAddressIsFiveTimesTheRegister :
    0xFF29#16 &&& 0xF0FF#16 = 0xF029#16 := by decide

theorem test_witness_AddRegistersSetsCarry :
    0x8FF4#16 &&& 0xF00F#16 = 0x8004#16 ∧
    14#4 ≠ flagReg := by decide

theorem test_witness_AndAndXorAreBitwise :
    0x8FF2#16 &&& 0xF00F#16 = 0x8002#16 ∧
    0x8FF3#16 &&& 0xF00F#16 = 0x8003#16 := by decide

theorem test_witness_BcdStoresThreeDigits :
    0xFF33#16 &&& 0xF0FF#16 = 0xF033#16 ∧
    start.mem.wf = true ∧
    (start.setI 4093#16).InRange 3 ∧
    ¬ (start.setI 4094#16).InRange 3 ∧
    ¬ (start.setI 0xFFFF#16).InRange 3 := by decide

theorem test_witness_StoreRegistersAtI :
    0xFF55#16 &&& 0xF0FF#16 = 0xF055#16 ∧
    start.mem.wf = true ∧
    (start.setI 4080#16).InRange ((15#4).toNat + 1) ∧
    ¬ (start.setI 4081#16).InRange ((15#4).toNat + 1) ∧
    (start.setI 4095#16).InRange ((0#4).toNat + 1) := by decide

theorem test_witness_LoadRegistersFromI :
    0xFF65#16 &&& 0xF0FF#16 = 0xF065#16 ∧
    (start.setI 4080#16).InRange ((15#4).toNat + 1) ∧
    ¬ (start.setI 4081#16).InRange ((15#4).toNat + 1) ∧
    ¬ (start.setI 4096#16).InRange ((0#4).toNat + 1) := by decide

theorem test_witness_ClsClearsTheDisplay :
    0x0FF0#16 &&& 0xF00F#16 = 0x0000#16 ∧
    (at' 0x0200#16 0x0120).Fetches 0x0120#16 := by decide

/-- No row and fifteen rows, in range and not; a sprite bit that hits a lit pixel, and a sprite that hits none. -/
theorem test_witness_DrwFlipsThePixelsUnderTheSprite :
    0xDFFF#16 &&& 0xF000#16 = 0xD000#16 ∧
    (start.setI 0xFFFF#16).InRange 0 ∧
    (start.setI 4081#16).InRange 15 ∧
    ¬ (start.setI 4082#16).InRange 15 ∧
    (SpriteHits (State.turn 0 start) 0#4 0#4 1 0 ∧ (State.turn 0 start).pixel 0 = true) ∧
    ∀ q, SpriteHits start 0#4 0#4 0 q → start.pixel q = false := by
  refine ⟨by decide, by decide, by decide, by decide, ⟨⟨0, by decide, 0, by decide, by decide, by decide⟩, by decide⟩, ?_⟩
  rintro q ⟨row, h, -⟩
  exact absurd h (Nat.not_lt_zero row)

theorem test_witness_KeySkipsTestTheLatchedKey :
    0xEFFE#16 &&& 0xF00F#16 = 0xE00E#16 ∧
    0xEFF1#16 &&& 0xF00F#16 = 0xE001#16 ∧
    ((start.setV 4#4 15#8).getV 4#4).toNat ≤ 15 ∧
    15 < ((start.setV 4#4 16#8).getV 4#4).toNat ∧
    ((at' 0x0FFE#16 0xE40E).setV 4#4 15#8).Fetches 0xE40E#16 ∧
    ((at' 0x0200#16 0xE401).setV 4#4 0#8).Fetches 0xE401#16 ∧
    (((at' 0x0FFE#16 0xE40E).setV 4#4 15#8).getV (fieldX 0xE40E#16)).toNat ≤ 15 ∧
    0xE401#16 &&& 0xF00F#16 = 0xE001#16 := by decide

theorem test_witness_ReadDelayTimer :
    0xFF07#16 &&& 0xF0FF#16 = 0xF007#16 ∧
    (at' 0x0200#16 0xFF07).Fetches 0xFF07#16 := by decide

theorem test_witness_WaitForKeyBeginsTheWait :
    0xFF0A#16 &&& 0xF0FF#16 = 0xF00A#16 ∧
    (at' 0x0200#16 0xFF0A).Fetches 0xFF0A#16 := by decide

theorem test_witness_LoadTimersThenTick :
    0xFF15#16 &&& 0xF0FF#16 = 0xF015#16 ∧
    0xFF18#16 &&& 0xF0FF#16 = 0xF018#16 ∧
    (at' 0x0200#16 0xFF15).Fetches 0xFF15#16 ∧
    (at' 0x0FFE#16 0xFF18).Fetches 0xFF18#16 := by decide

theorem test_witness_CallThenRetRoundTrip :
    (start.setSp 14#4).sp ≠ 15#4 ∧
    start.sp ≠ 15#4 := by decide

theorem test_witness_StoreThenLoadRegistersRoundTrip :
    start.mem.wf = true ∧
    (start.setI 4080#16).InRange ((15#4).toNat + 1) := by decide

theorem test_witness_DrawingTwiceRestoresTheDisplay :
    14#4 ≠ flagReg ∧
    0#4 ≠ flagReg ∧
    (start.setI 4081#16).InRange 15 := by decide

/-- Both instructions, at a store into the next instruction, into the instruction itself and at the end of memory. -/
theorem test_witness_StoreIsSeenByTheNextFetch :
    (at' 0x0FFC#16 0xF155).mem.wf = true ∧
    ((at' 0x0FFC#16 0xF155).setI 0x0FFE#16).Fetches 0xF155#16 ∧
    ((at' 0x0FFC#16 0xF155).setI 0x0FFE#16).InRange ((fieldX 0xF155#16).toNat + 1) ∧
    ((at' 0x0FFE#16 0xFF55).setI 4080#16).Fetches 0xFF55#16 ∧
    ((at' 0x0FFE#16 0xFF55).setI 4080#16).InRange ((fieldX 0xFF55#16).toNat + 1) ∧
    0xFF55#16 &&& 0xF0FF#16 = 0xF055#16 ∧
    ((at' 0x0200#16 0xF333).setI 0x0200#16).Fetches 0xF333#16 ∧
    ((at' 0x0FFC#16 0xF333).setI 4093#16).Fetches 0xF333#16 ∧
    ((at' 0x0FFC#16 0xF333).setI 4093#16).InRange 3 ∧
    0xF333#16 &&& 0xF0FF#16 = 0xF033#16 := by decide

end Sys2Proof.Machine.Tests
end

section
/-! SUPPORT. The primary key of a word selects its row (spec/30_encoding.md rules R48, R50). -/

namespace Sys2Proof

/-- Masking a word with `0xF000` shows its primary key. -/
theorem fieldN1_eq_of_and {k : Nibble} {w : Word} (h : w &&& 0xF000#16 = wordXYN k 0#4 0#4 0#4) : fieldN1 w = k := by
  rw [word_eq_nibbles w, ownRow_XYZ] at h
  exact (wordXYN_inj.mp h).1

namespace Machine

/-- A primary key that determines the instruction selects it by the mask `0xF000`. -/
theorem selects_of_primaryKey (k : Nibble) {instr : Word → Instr}
    (h : ∀ w, fieldN1 w = k → decodeWord w = some (instr w)) : Selects 0xF000#16 (wordXYN k 0#4 0#4 0#4) instr :=
  fun w hw => h w (fieldN1_eq_of_and hw)

theorem selects_seVxByte : Selects 0xF000#16 0x3000#16 fun w => .seVxByte (fieldX w) (fieldKk w) :=
  selects_of_primaryKey 3#4 fun w h => by simp only [decodeWord, h]

theorem selects_sneVxByte : Selects 0xF000#16 0x4000#16 fun w => .sneVxByte (fieldX w) (fieldKk w) :=
  selects_of_primaryKey 4#4 fun w h => by simp only [decodeWord, h]

theorem selects_seVxVy : Selects 0xF000#16 0x5000#16 fun w => .seVxVy (fieldX w) (fieldY w) :=
  selects_of_primaryKey 5#4 fun w h => by simp only [decodeWord, h]

theorem selects_sneVxVy : Selects 0xF000#16 0x9000#16 fun w => .sneVxVy (fieldX w) (fieldY w) :=
  selects_of_primaryKey 9#4 fun w h => by simp only [decodeWord, h]

end Machine

end Sys2Proof
end

section
/-! SUPPORT. From the routine level to the cycle level (spec/40_cycle_driver.md rule R72): a fetched word runs its instruction,
and the cycle ends 2 beyond the `pc` its execute phase leaves. -/

namespace Sys2Proof.Machine

@[simp] theorem pc_latchInputs (s : State) : s.latchInputs.pc = s.pc := rfl

theorem State.Fetches.fetchWord_eq {s : State} {w : Word} (h : s.Fetches w) : s.fetchWord = .ok w := by
  obtain ⟨-, -, hpc, hhi, hlo⟩ := h
  rcases fetchWord_cases s with ⟨-, e⟩ | ⟨hout, -⟩
  · rw [e, hhi, hlo, wordOfBytes_bytes]
  · omega

theorem State.Fetches.step_eq {s : State} {w : Word} {i : Instr} (h : s.Fetches w) (hd : decodeWord w = some i) :
    step s = finishCycle s (exec i s.latchInputs) := by
  have hw := h.fetchWord_eq
  obtain ⟨hfault, hrun, -⟩ := h
  simp [step, runCycle, runInstruction, hfault, hrun, hw, hd]

/-- A fetched instruction whose execute phase takes no fault ends its cycle 2 beyond the `pc` that phase leaves (rule R68). -/
theorem State.Fetches.endsWithPc {s t : State} {w : Word} {i : Instr} (h : s.Fetches w) (hd : decodeWord w = some i)
    (he : exec i s.latchInputs = .next t) (ht : t.NoFault) : EndsWithPc (t.pc + 2#16) s := by
  have hstep : step s = .next t.tickTimers.advancePc.emitOutputs := by
    rw [h.step_eq hd, he, finishCycle_next, if_pos ht]
  rw [finished_eq] at hstep
  exact ⟨_, hstep, ht, rfl⟩

end Sys2Proof.Machine
end

section
/-! SUPPORT. The skip, which the four skip instructions below share, at both levels (spec/41_control_flow.md rule R78), and the
obligations O28 to O31. -/

namespace Sys2Proof.Machine

theorem unchanged_setPc (s : State) (a : Word) : Unchanged (fun p => p = .pc) s (s.setPc a) := by
  intro p hp
  cases p with
  | pc => exact absurd rfl hp
  | _ => simp [Part.Same]

/-- A skip writes `pc` and nothing else. -/
theorem completes_skipIf (s : State) (c : Prop) [Decidable c] :
    Completes (fun p => p = .pc) s (.next (s.skipIf (decide c))) fun t => t.pc = if c then s.pc + 2#16 else s.pc := by
  refine ⟨_, rfl, ?_, unchanged_setPc s _⟩
  simp only [State.skipIf, setPc_pc, decide_eq_true_eq]

/-- A fetched instruction that skips ends its cycle one or two words beyond its own address. -/
theorem State.Fetches.endsWithPc_skipIf {s : State} {w : Word} {i : Instr} {c : Prop} [Decidable c] (h : s.Fetches w)
    (hd : decodeWord w = some i) (he : exec i s.latchInputs = .next (s.latchInputs.skipIf (decide c))) :
    EndsWithPc (if c then s.pc + 4#16 else s.pc + 2#16) s := by
  have hpc := h.endsWithPc hd he h.1
  by_cases hc : c
  · simpa [State.skipIf, hc, BitVec.add_assoc] using hpc
  · simpa [State.skipIf, hc] using hpc

/-- Settles O28: key 3 selects it, and its execute phase is a skip on `V[x] = kk`. -/
theorem skipIfRegisterEqualsByte : Obligations.SkipIfRegisterEqualsByte :=
  ⟨selects_seVxByte, fun s x kk => completes_skipIf s (s.getV x = kk),
    fun _ w hf hw => hf.endsWithPc_skipIf (selects_seVxByte w hw) rfl⟩

/-- Settles O29: key 4 selects it, and its execute phase is a skip on `V[x] ≠ kk`. -/
theorem skipIfRegisterDiffersFromByte : Obligations.SkipIfRegisterDiffersFromByte :=
  ⟨selects_sneVxByte, fun s x kk => completes_skipIf s (s.getV x ≠ kk),
    fun _ w hf hw => hf.endsWithPc_skipIf (selects_sneVxByte w hw) rfl⟩

/-- Settles O30: key 5 selects it, and its execute phase is a skip on `V[x] = V[y]`. -/
theorem skipIfRegistersEqual : Obligations.SkipIfRegistersEqual :=
  ⟨selects_seVxVy, fun s x y => completes_skipIf s (s.getV x = s.getV y),
    fun _ w hf hw => hf.endsWithPc_skipIf (selects_seVxVy w hw) rfl⟩

/-- Settles O31: key 9 selects it, and its execute phase is a skip on `V[x] ≠ V[y]`. -/
theorem skipIfRegistersDiffer : Obligations.SkipIfRegistersDiffer :=
  ⟨selects_sneVxVy, fun s x y => completes_skipIf s (s.getV x ≠ s.getV y),
    fun _ w hf hw => hf.endsWithPc_skipIf (selects_sneVxVy w hw) rfl⟩

end Sys2Proof.Machine
end

section
/-! SUPPORT. The primary key and the fourth nibble of a word select its row (spec/30_encoding.md rules R48, R50). -/

namespace Sys2Proof

/-- Masking a word with `0xF00F` shows its primary key and its fourth nibble. -/
theorem fieldN1_fieldN_eq_of_and {k n : Nibble} {w : Word} (h : w &&& 0xF00F#16 = wordXYN k 0#4 0#4 n) :
    fieldN1 w = k ∧ fieldN w = n := by
  rw [word_eq_nibbles w, ownRow_XYS] at h
  obtain ⟨hk, -, -, hn⟩ := wordXYN_inj.mp h
  exact ⟨hk, hn⟩

namespace Machine

/-- A primary key and a fourth nibble that together determine the instruction select it by the mask `0xF00F`. -/
theorem selects_of_primaryKey_fourthNibble (k n : Nibble) {instr : Word → Instr}
    (h : ∀ w, fieldN1 w = k → fieldN w = n → decodeWord w = some (instr w)) :
    Selects 0xF00F#16 (wordXYN k 0#4 0#4 n) instr := fun w hw =>
  have ⟨hk, hn⟩ := fieldN1_fieldN_eq_of_and hw
  h w hk hn

/-- Within the group of primary key 8 the fourth nibble selects. -/
theorem selects_of_group8 (n : Nibble) {instr : Word → Instr}
    (h : ∀ w, fieldN w = n → decodeGroup8 w = some (instr w)) : Selects 0xF00F#16 (wordXYN 8#4 0#4 0#4 n) instr :=
  selects_of_primaryKey_fourthNibble 8#4 n fun w hk hn => by simpa only [decodeWord, hk] using h w hn

theorem selects_ldVxByte : Selects 0xF000#16 0x6000#16 fun w => .ldVxByte (fieldX w) (fieldKk w) :=
  selects_of_primaryKey 6#4 fun w h => by simp only [decodeWord, h]

theorem selects_ldVxVy : Selects 0xF00F#16 0x8000#16 fun w => .ldVxVy (fieldX w) (fieldY w) :=
  selects_of_group8 0#4 fun w h => by simp only [decodeGroup8, h]

theorem selects_andVxVy : Selects 0xF00F#16 0x8002#16 fun w => .andVxVy (fieldX w) (fieldY w) :=
  selects_of_group8 2#4 fun w h => by simp only [decodeGroup8, h]

theorem selects_xorVxVy : Selects 0xF00F#16 0x8003#16 fun w => .xorVxVy (fieldX w) (fieldY w) :=
  selects_of_group8 3#4 fun w h => by simp only [decodeGroup8, h]

end Machine

end Sys2Proof
end

section
/-! SUPPORT. The write of one general register, which the loads and the bitwise operations share (spec/42_load_and_alu.md rules
R86 to R91), and the obligations O33, O35 and O37. -/

namespace Sys2Proof.Machine

/-- A completed answer has every property that follows from the one shown. -/
theorem Completes.imp {written : Part → Prop} {s : State} {r : Result} {holds holds' : State → Prop}
    (h : Completes written s r holds) (himp : ∀ t, holds t → holds' t) : Completes written s r holds' :=
  have ⟨t, hr, ht, hframe⟩ := h
  ⟨t, hr, himp t ht, hframe⟩

theorem unchanged_setV (s : State) (x : Reg) (b : Byte) : Unchanged (fun p => p = .v x) s (s.setV x b) := by
  intro p hp
  cases p with
  | v r =>
    have hr : r ≠ x := fun e => hp (congrArg Part.v e)
    simp only [Part.Same, getV_setV, if_neg hr]
  | _ => simp [Part.Same]

/-- A register write sets that register and nothing else. -/
theorem completes_setV (s : State) (x : Reg) (b : Byte) :
    Completes (fun p => p = .v x) s (.next (s.setV x b)) fun t => t.getV x = b :=
  ⟨_, rfl, (getV_setV s x x b).trans (if_pos rfl), unchanged_setV s x b⟩

/-- Settles O33: key 6 selects it, and its execute phase writes `kk` to `V[x]`. -/
theorem loadByteIntoRegister : Obligations.LoadByteIntoRegister :=
  ⟨selects_ldVxByte, completes_setV⟩

/-- Settles O35: key 8 with fourth nibble 0 selects it, and its execute phase writes `V[y]` to `V[x]`. -/
theorem copyRegister : Obligations.CopyRegister :=
  ⟨selects_ldVxVy, fun s x y => completes_setV s x (s.getV y)⟩

theorem completes_andVxVy (s : State) (x y : Reg) :
    Completes (fun p => p = .v x) s (exec (.andVxVy x y) s) fun t => t.getV x = s.getV x &&& s.getV y :=
  completes_setV s x _

theorem completes_xorVxVy (s : State) (x y : Reg) :
    Completes (fun p => p = .v x) s (exec (.xorVxVy x y) s) fun t => t.getV x = s.getV x ^^^ s.getV y :=
  completes_setV s x _

/-- Settles O37: key 8 with fourth nibble 2 or 3 selects them, their execute phase writes the AND or XOR to `V[x]`, and of a
byte with itself AND is that byte and XOR is 0. -/
theorem andAndXorAreBitwise : Obligations.AndAndXorAreBitwise := by
  refine ⟨selects_andVxVy, selects_xorVxVy, fun s x y =>
    ⟨(completes_andVxVy s x y).imp fun t ht => ⟨fun k _ => ?_, fun hxy => ?_⟩,
      (completes_xorVxVy s x y).imp fun t ht => ⟨fun k _ => ?_, fun hxy => ?_⟩⟩⟩
  · rw [ht, BitVec.getLsbD_and]
  · rw [ht, hxy, BitVec.and_self]
  · rw [ht, BitVec.getLsbD_xor]
  · rw [ht, hxy, BitVec.xor_self]

end Sys2Proof.Machine
end

section
/-! SUPPORT. The primary key and the low byte of a word select its row (spec/30_encoding.md rules R48, R50). -/

namespace Sys2Proof

/-- A word is its primary key, its second nibble and its low byte. -/
theorem word_eq_wordXK (w : Word) : w = wordXK (fieldN1 w) (fieldX w) (fieldKk w) := by
  apply BitVec.eq_of_toNat_eq
  rw [wordXK_toNat, fieldN1_toNat, fieldX_toNat, fieldKk_toNat]
  omega

/-- Masking a word with `0xF0FF` shows its primary key and its low byte. -/
theorem fieldN1_fieldKk_eq_of_and {k : Nibble} {kk : Byte} {w : Word} (h : w &&& 0xF0FF#16 = wordXK k 0#4 kk) :
    fieldN1 w = k ∧ fieldKk w = kk := by
  rw [word_eq_wordXK w, ownRow_XS8] at h
  exact ⟨by simpa only [fieldN1_wordXK] using congrArg fieldN1 h, by simpa only [fieldKk_wordXK] using congrArg fieldKk h⟩

namespace Machine

/-- Within the group of primary key F the low byte selects. -/
theorem selects_of_groupF (kk : Byte) {instr : Word → Instr}
    (h : ∀ w, fieldKk w = kk → decodeGroupF w = some (instr w)) : Selects 0xF0FF#16 (wordXK 0xF#4 0#4 kk) instr :=
  fun w hw => by
    obtain ⟨hk, hkk⟩ := fieldN1_fieldKk_eq_of_and hw
    simpa only [decodeWord, hk] using h w hkk

theorem selects_ldIAddr : Selects 0xF000#16 0xA000#16 fun w => .ldIAddr (fieldNnn w) :=
  selects_of_primaryKey 0xA#4 fun w h => by simp only [decodeWord, h]

theorem selects_ldFVx : Selects 0xF0FF#16 0xF029#16 fun w => .ldFVx (fieldX w) :=
  selects_of_groupF 0x29#8 fun w h => by simp only [decodeGroupF, h]

end Machine

end Sys2Proof
end

section
/-! SUPPORT. The write of `I`, which the loads of the address register share (spec/43_index_and_memory.md rules R101 and R103),
and the obligations O44 and O46. -/

namespace Sys2Proof.Machine

theorem unchanged_setI (s : State) (a : Word) : Unchanged (fun p => p = .regI) s (s.setI a) := by
  intro p hp
  cases p with
  | regI => exact absurd rfl hp
  | _ => simp [Part.Same]

/-- A write of `I` sets it and nothing else. -/
theorem completes_setI (s : State) (a : Word) :
    Completes (fun p => p = .regI) s (.next (s.setI a)) fun t => t.regI = a :=
  ⟨_, rfl, setI_regI s a, unchanged_setI s a⟩

/-- Zero extension keeps the value of an address. -/
theorem extendAddr_toNat (nnn : Addr) : (extendAddr nnn).toNat = nnn.toNat :=
  BitVec.toNat_setWidth_of_le (by decide)

/-- Five times a byte fits in 16 bits, so the glyph address is the exact product. -/
theorem glyphAddress_toNat (b : Byte) : (glyphAddress b).toNat = b.toNat * 5 := by
  have hfits : b.toNat * 5 < 2 ^ 16 := by omega
  exact (BitVec.toNat_ofNat _ 16).trans (Nat.mod_eq_of_lt hfits)

theorem completes_ldIAddr (s : State) (nnn : Addr) :
    Completes (fun p => p = .regI) s (exec (.ldIAddr nnn) s) fun t => t.regI = extendAddr nnn :=
  completes_setI s _

theorem completes_ldFVx (s : State) (x : Reg) :
    Completes (fun p => p = .regI) s (exec (.ldFVx x) s) fun t => t.regI = glyphAddress (s.getV x) :=
  completes_setI s _

/-- Settles O44: key A selects it, and its execute phase writes to `I` the address, whose value zero extension keeps. -/
theorem loadAddressIntoI : Obligations.LoadAddressIntoI :=
  ⟨selects_ldIAddr, fun s nnn => (completes_ldIAddr s nnn).imp fun t ht => by rw [ht, extendAddr_toNat]⟩

/-- Settles O46: key F with low byte `0x29` selects it, and its execute phase writes to `I` the whole register times 5. -/
theorem glyphAddressIsFiveTimesTheRegister : Obligations.GlyphAddressIsFiveTimesTheRegister :=
  ⟨selects_ldFVx, fun s x => (completes_ldFVx s x).imp fun t ht => by rw [ht, glyphAddress_toNat]⟩

end Sys2Proof.Machine
end

section
/-! SUPPORT. The write of the whole display (spec/44_display.md rules R110, R111) at both levels, and the obligation O50. -/

namespace Sys2Proof.Machine

/-- Phases 6 to 8 leave the display as the execute phase left it. -/
@[simp] theorem finished_pixel (t : State) (q : Pixel) : t.tickTimers.advancePc.emitOutputs.pixel q = t.pixel q := rfl

/-- Phase 8 reports the `redraw_flag` that the execute phase left (rule R69). -/
@[simp] theorem finished_redrawNeeded (t : State) :
    t.tickTimers.advancePc.emitOutputs.redrawNeeded = t.redrawFlag := rfl

/-- A fetched instruction whose execute phase takes no fault ends its cycle with phases 6 to 8 on the state that phase leaves. -/
theorem State.Fetches.step_eq_finished {s t : State} {w : Word} {i : Instr} (h : s.Fetches w)
    (hd : decodeWord w = some i) (he : exec i s.latchInputs = .next t) (ht : t.NoFault) :
    step s = .next t.tickTimers.advancePc.emitOutputs := by
  rw [h.step_eq hd, he, finishCycle_next, if_pos ht]

/-- Primary key 0 with fourth nibble 0 selects `CLS`, whatever the two ignored nibbles hold (rule R51). -/
theorem selects_cls : Selects 0xF00F#16 0x0000#16 fun _ => .cls :=
  selects_of_primaryKey_fourthNibble 0#4 0#4 fun w hk hn => by simp only [decodeWord, hk, decodeGroup0, hn]

theorem exec_cls (s : State) : exec .cls s = .next (s.setDisplay Display.clear) := rfl

theorem unchanged_setDisplay (s : State) (d : Display) :
    Unchanged (fun p => (∃ q, p = .pixel q) ∨ p = .redrawFlag) s (s.setDisplay d) := by
  intro p hp
  cases p with
  | pixel q => exact absurd (.inl ⟨q, rfl⟩) hp
  | redrawFlag => exact absurd (.inr rfl) hp
  | _ => simp [Part.Same]

/-- A write of the display sets every pixel and `redraw_flag`, and nothing else. -/
theorem completes_setDisplay (s : State) (d : Display) :
    Completes (fun p => (∃ q, p = .pixel q) ∨ p = .redrawFlag) s (.next (s.setDisplay d)) fun t =>
      (∀ q, t.pixel q = Display.pixel d q) ∧ t.redrawFlag = true :=
  ⟨_, rfl, ⟨pixel_setDisplay s d, setDisplay_redrawFlag s d⟩, unchanged_setDisplay s d⟩

/-- Settles O50: keys 0 and 0 select it, its execute phase writes the clear display, and phases 6 to 8 keep that display and
report the flag. -/
theorem clsClearsTheDisplay : Obligations.ClsClearsTheDisplay := by
  refine ⟨selects_cls, fun s => ?_, fun s w hf hw => ?_⟩
  · exact (completes_setDisplay s Display.clear).imp fun t ⟨hpixel, hflag⟩ =>
      ⟨fun q => (hpixel q).trans (pixel_clear q), hflag⟩
  · have hstep := hf.step_eq_finished (selects_cls w hw) (exec_cls s.latchInputs) hf.1
    exact ⟨_, hstep, fun q => by simp, by simp⟩

end Sys2Proof.Machine
end

section
/-! SUPPORT. The rows of the opcode map (spec/30_encoding.md rules R46 to R51): a word decodes to an instruction exactly when its
selecting bits are those of the instruction's row and its fields are the operands, and the obligations O1 to O5. -/

namespace Sys2Proof

/-- The instruction of the same row whose operands are the fields of a word (rule R47). -/
def Instr.withFields (w : Word) : Instr → Instr
  | .cls => .cls
  | .ret => .ret
  | .jpAddr _ => .jpAddr (fieldNnn w)
  | .callAddr _ => .callAddr (fieldNnn w)
  | .seVxByte _ _ => .seVxByte (fieldX w) (fieldKk w)
  | .sneVxByte _ _ => .sneVxByte (fieldX w) (fieldKk w)
  | .seVxVy _ _ => .seVxVy (fieldX w) (fieldY w)
  | .ldVxByte _ _ => .ldVxByte (fieldX w) (fieldKk w)
  | .addVxByte _ _ => .addVxByte (fieldX w) (fieldKk w)
  | .ldVxVy _ _ => .ldVxVy (fieldX w) (fieldY w)
  | .orVxVy _ _ => .orVxVy (fieldX w) (fieldY w)
  | .andVxVy _ _ => .andVxVy (fieldX w) (fieldY w)
  | .xorVxVy _ _ => .xorVxVy (fieldX w) (fieldY w)
  | .addVxVy _ _ => .addVxVy (fieldX w) (fieldY w)
  | .subVxVy _ _ => .subVxVy (fieldX w) (fieldY w)
  | .shrVx _ => .shrVx (fieldX w)
  | .subnVxVy _ _ => .subnVxVy (fieldX w) (fieldY w)
  | .shlVx _ => .shlVx (fieldX w)
  | .sneVxVy _ _ => .sneVxVy (fieldX w) (fieldY w)
  | .ldIAddr _ => .ldIAddr (fieldNnn w)
  | .jpV0Addr _ => .jpV0Addr (fieldNnn w)
  | .rndVxByte _ _ => .rndVxByte (fieldX w) (fieldKk w)
  | .drwVxVyN _ _ _ => .drwVxVyN (fieldX w) (fieldY w) (fieldN w).toNat
  | .skpVx _ => .skpVx (fieldX w)
  | .sknpVx _ => .sknpVx (fieldX w)
  | .ldVxDt _ => .ldVxDt (fieldX w)
  | .ldVxK _ => .ldVxK (fieldX w)
  | .ldDtVx _ => .ldDtVx (fieldX w)
  | .ldStVx _ => .ldStVx (fieldX w)
  | .addIVx _ => .addIVx (fieldX w)
  | .ldFVx _ => .ldFVx (fieldX w)
  | .ldBVx _ => .ldBVx (fieldX w)
  | .ldMemVx _ => .ldMemVx (fieldX w)
  | .ldVxMem _ => .ldVxMem (fieldX w)

/-! ### The fields of a word as its nibbles -/

theorem fieldKk_eq_iff {w w' : Word} : fieldKk w = fieldKk w' ↔ fieldY w = fieldY w' ∧ fieldN w = fieldN w' := by
  simp only [← BitVec.toNat_inj, fieldKk_toNat, fieldY_toNat, fieldN_toNat]
  omega

theorem fieldNnn_eq_iff {w w' : Word} :
    fieldNnn w = fieldNnn w' ↔ fieldX w = fieldX w' ∧ fieldY w = fieldY w' ∧ fieldN w = fieldN w' := by
  simp only [← BitVec.toNat_inj, fieldNnn_toNat, fieldX_toNat, fieldY_toNat, fieldN_toNat]
  omega

/-- Two words agree under a mask exactly when each nibble does. -/
theorem and_wordXYN_eq_iff {w w' : Word} (a b c d : Nibble) :
    w &&& wordXYN a b c d = w' &&& wordXYN a b c d ↔
      fieldN1 w &&& a = fieldN1 w' &&& a ∧ fieldX w &&& b = fieldX w' &&& b ∧
      fieldY w &&& c = fieldY w' &&& c ∧ fieldN w &&& d = fieldN w' &&& d := by
  rw [word_eq_nibbles w, word_eq_nibbles w', wordXYN_and, wordXYN_and, wordXYN_inj]
  simp only [fieldN1_wordXYN, fieldX_wordXYN, fieldY_wordXYN, fieldN_wordXYN]

theorem nibble_and_allOnes (k : Nibble) : k &&& 15#4 = k := BitVec.and_allOnes

theorem byte_and_allOnes (kk : Byte) : kk &&& 255#8 = kk := BitVec.and_allOnes

/-! ### A word decodes by its row -/

theorem keys_F000 {w pattern : Word} (h : w &&& 0xF000#16 = pattern) : fieldN1 w = pattern.extractLsb' 12 4 := by
  subst h
  simp only [fieldN1, BitVec.extractLsb'_and, BitVec.reduceExtractLsb', nibble_and_allOnes]

theorem keys_F00F {w pattern : Word} (h : w &&& 0xF00F#16 = pattern) :
    fieldN1 w = pattern.extractLsb' 12 4 ∧ fieldN w = pattern.extractLsb' 0 4 := by
  subst h
  simp only [fieldN1, fieldN, BitVec.extractLsb'_and, BitVec.reduceExtractLsb', nibble_and_allOnes, and_self]

theorem keys_F0FF {w pattern : Word} (h : w &&& 0xF0FF#16 = pattern) :
    fieldN1 w = pattern.extractLsb' 12 4 ∧ fieldKk w = pattern.extractLsb' 0 8 := by
  subst h
  simp only [fieldN1, fieldKk, BitVec.extractLsb'_and, BitVec.reduceExtractLsb', nibble_and_allOnes, byte_and_allOnes, and_self]

theorem decodeWord_group0 {w : Word} (hk : fieldN1 w = 0x0#4) : decodeWord w = decodeGroup0 w := by
  simp only [decodeWord, hk]

theorem decodeWord_group8 {w : Word} (hk : fieldN1 w = 0x8#4) : decodeWord w = decodeGroup8 w := by
  simp only [decodeWord, hk]

theorem decodeWord_groupE {w : Word} (hk : fieldN1 w = 0xE#4) : decodeWord w = decodeGroupE w := by
  simp only [decodeWord, hk]

theorem decodeWord_groupF {w : Word} (hk : fieldN1 w = 0xF#4) : decodeWord w = decodeGroupF w := by
  simp only [decodeWord, hk]

/-- A word with the selecting bits of a row decodes to that row's instruction, the fields of the word as its operands. -/
theorem decodeWord_of_row (i : Instr) {w : Word} (h : w &&& opcodeMask i = opcodeMatch i) :
    decodeWord w = some (i.withFields w) := by
  cases i with
  | jpAddr | callAddr | seVxByte | sneVxByte | seVxVy | ldVxByte | addVxByte | sneVxVy | ldIAddr | jpV0Addr | rndVxByte
  | drwVxVyN =>
    have hk := keys_F000 h
    simp only [opcodeMatch, BitVec.reduceExtractLsb'] at hk
    simp only [decodeWord, hk, Instr.withFields]
  | cls | ret =>
    obtain ⟨hk, hn⟩ := keys_F00F h
    simp only [opcodeMatch, BitVec.reduceExtractLsb'] at hk hn
    simp only [decodeWord_group0 hk, decodeGroup0, hn, Instr.withFields]
  | ldVxVy | orVxVy | andVxVy | xorVxVy | addVxVy | subVxVy | shrVx | subnVxVy | shlVx =>
    obtain ⟨hk, hn⟩ := keys_F00F h
    simp only [opcodeMatch, BitVec.reduceExtractLsb'] at hk hn
    simp only [decodeWord_group8 hk, decodeGroup8, hn, Instr.withFields]
  | skpVx | sknpVx =>
    obtain ⟨hk, hn⟩ := keys_F00F h
    simp only [opcodeMatch, BitVec.reduceExtractLsb'] at hk hn
    simp only [decodeWord_groupE hk, decodeGroupE, hn, Instr.withFields]
  | ldVxDt | ldVxK | ldDtVx | ldStVx | addIVx | ldFVx | ldBVx | ldMemVx | ldVxMem =>
    obtain ⟨hk, hkk⟩ := keys_F0FF h
    simp only [opcodeMatch, BitVec.reduceExtractLsb'] at hk hkk
    simp only [decodeWord_groupF hk, decodeGroupF, hkk, Instr.withFields]

/-! ### The row of a word from its keys -/

theorem row_F000 {k : Nibble} {w : Word} (hk : fieldN1 w = k) : w &&& 0xF000#16 = wordXYN k 0#4 0#4 0#4 := by
  rw [word_eq_nibbles w, ownRow_XYZ, hk]

theorem row_F00F {k n : Nibble} {w : Word} (hk : fieldN1 w = k) (hn : fieldN w = n) :
    w &&& 0xF00F#16 = wordXYN k 0#4 0#4 n := by
  rw [word_eq_nibbles w, ownRow_XYS, hk, hn]

theorem row_F0FF {k : Nibble} {kk : Byte} {w : Word} (hk : fieldN1 w = k) (hkk : fieldKk w = kk) :
    w &&& 0xF0FF#16 = wordXK k 0#4 kk := by
  rw [word_eq_wordXK w, ownRow_XS8, hk, hkk]

/-- A word lies in the row of an instruction, and the instruction's operands are its fields. -/
def InRow (w : Word) (i : Instr) : Prop := w &&& opcodeMask i = opcodeMatch i ∧ i.withFields w = i

theorem inRow_of_decodeGroup0 {w : Word} {i : Instr} (hk : fieldN1 w = 0#4) (h : decodeGroup0 w = some i) : InRow w i := by
  unfold decodeGroup0 at h
  split at h <;> cases h
  all_goals
    rename_i hn
    exact ⟨(row_F00F hk hn :), rfl⟩

theorem inRow_of_decodeGroup8 {w : Word} {i : Instr} (hk : fieldN1 w = 8#4) (h : decodeGroup8 w = some i) : InRow w i := by
  unfold decodeGroup8 at h
  split at h <;> cases h
  all_goals
    rename_i hn
    exact ⟨(row_F00F hk hn :), rfl⟩

theorem inRow_of_decodeGroupE {w : Word} {i : Instr} (hk : fieldN1 w = 0xE#4) (h : decodeGroupE w = some i) : InRow w i := by
  unfold decodeGroupE at h
  split at h <;> cases h
  all_goals
    rename_i hn
    exact ⟨(row_F00F hk hn :), rfl⟩

theorem inRow_of_decodeGroupF {w : Word} {i : Instr} (hk : fieldN1 w = 0xF#4) (h : decodeGroupF w = some i) : InRow w i := by
  unfold decodeGroupF at h
  split at h <;> cases h
  all_goals
    rename_i hkk
    exact ⟨(row_F0FF hk hkk :), rfl⟩

/-- A word decodes to an instruction exactly when it lies in that instruction's row with the instruction's operands as its fields. -/
theorem decodeWord_eq_some_iff {w : Word} {i : Instr} : decodeWord w = some i ↔ InRow w i := by
  constructor
  · intro h
    unfold decodeWord at h
    split at h
    case h_1 hk => exact inRow_of_decodeGroup0 hk h
    case h_9 hk => exact inRow_of_decodeGroup8 hk h
    case h_15 hk => exact inRow_of_decodeGroupE hk h
    case h_16 hk => exact inRow_of_decodeGroupF hk h
    all_goals cases h
    all_goals
      rename_i hk
      exact ⟨(row_F000 hk :), rfl⟩
  · rintro ⟨hrow, hfields⟩
    rw [decodeWord_of_row i hrow, hfields]

/-! ### The bits that are not ignored -/

theorem compl_0000 : ~~~(0x0000#16 : Word) = 0xFFFF#16 := by decide
theorem compl_000F : ~~~(0x000F#16 : Word) = 0xFFF0#16 := by decide
theorem compl_00F0 : ~~~(0x00F0#16 : Word) = 0xFF0F#16 := by decide
theorem compl_0FF0 : ~~~(0x0FF0#16 : Word) = 0xF00F#16 := by decide

section
variable {w w' : Word}

theorem agree_F000 : w &&& 0xF000#16 = w' &&& 0xF000#16 ↔ fieldN1 w = fieldN1 w' :=
  (and_wordXYN_eq_iff 15#4 0#4 0#4 0#4).trans (by simp only [nibble_and_allOnes, BitVec.and_zero, and_true])

theorem agree_F00F : w &&& 0xF00F#16 = w' &&& 0xF00F#16 ↔ fieldN1 w = fieldN1 w' ∧ fieldN w = fieldN w' :=
  (and_wordXYN_eq_iff 15#4 0#4 0#4 15#4).trans (by simp only [nibble_and_allOnes, BitVec.and_zero, true_and])

theorem agree_F0FF : w &&& 0xF0FF#16 = w' &&& 0xF0FF#16 ↔
    fieldN1 w = fieldN1 w' ∧ fieldY w = fieldY w' ∧ fieldN w = fieldN w' :=
  (and_wordXYN_eq_iff 15#4 0#4 15#4 15#4).trans (by simp only [nibble_and_allOnes, BitVec.and_zero, true_and])

theorem agree_FFF0 : w &&& 0xFFF0#16 = w' &&& 0xFFF0#16 ↔
    fieldN1 w = fieldN1 w' ∧ fieldX w = fieldX w' ∧ fieldY w = fieldY w' :=
  (and_wordXYN_eq_iff 15#4 15#4 15#4 0#4).trans (by simp only [nibble_and_allOnes, BitVec.and_zero, and_true])

theorem agree_FF0F : w &&& 0xFF0F#16 = w' &&& 0xFF0F#16 ↔
    fieldN1 w = fieldN1 w' ∧ fieldX w = fieldX w' ∧ fieldN w = fieldN w' :=
  (and_wordXYN_eq_iff 15#4 15#4 0#4 15#4).trans (by simp only [nibble_and_allOnes, BitVec.and_zero, true_and])

theorem agree_FFFF : w &&& 0xFFFF#16 = w' &&& 0xFFFF#16 ↔
    fieldN1 w = fieldN1 w' ∧ fieldX w = fieldX w' ∧ fieldY w = fieldY w' ∧ fieldN w = fieldN w' :=
  (and_wordXYN_eq_iff 15#4 15#4 15#4 15#4).trans (by simp only [nibble_and_allOnes])

end

/-- Two words agree on the bits an instruction does not ignore exactly when they agree on its selecting bits and give it the
same operands (rule R51). -/
theorem agree_outside_ignored_iff (i : Instr) (w w' : Word) :
    w &&& ~~~ignoredBits i = w' &&& ~~~ignoredBits i ↔
      w &&& opcodeMask i = w' &&& opcodeMask i ∧ i.withFields w = i.withFields w' := by
  cases i with
  | cls | ret =>
    rw [ignoredBits, compl_0FF0]
    simp [opcodeMask, Instr.withFields]
  | jpAddr | callAddr | ldIAddr | jpV0Addr =>
    rw [ignoredBits, compl_0000, agree_FFFF]
    simp [opcodeMask, Instr.withFields, agree_F000, fieldNnn_eq_iff]
  | seVxByte | sneVxByte | ldVxByte | addVxByte | rndVxByte =>
    rw [ignoredBits, compl_0000, agree_FFFF]
    simp [opcodeMask, Instr.withFields, agree_F000, fieldKk_eq_iff]
  | seVxVy | sneVxVy =>
    rw [ignoredBits, compl_000F, agree_FFF0]
    simp [opcodeMask, Instr.withFields, agree_F000]
  | drwVxVyN =>
    rw [ignoredBits, compl_0000, agree_FFFF]
    simp [opcodeMask, Instr.withFields, agree_F000, BitVec.toNat_inj]
  | ldVxVy | orVxVy | andVxVy | xorVxVy | addVxVy | subVxVy | subnVxVy =>
    rw [ignoredBits, compl_0000, agree_FFFF]
    simp [opcodeMask, Instr.withFields, agree_F00F, and_assoc, and_left_comm, and_comm]
  | shrVx | shlVx | skpVx | sknpVx =>
    rw [ignoredBits, compl_00F0, agree_FF0F]
    simp [opcodeMask, Instr.withFields, agree_F00F, and_assoc, and_left_comm, and_comm]
  | ldVxDt | ldVxK | ldDtVx | ldStVx | addIVx | ldFVx | ldBVx | ldMemVx | ldVxMem =>
    rw [ignoredBits, compl_0000, agree_FFFF]
    simp [opcodeMask, Instr.withFields, agree_F0FF, and_left_comm, and_comm]

theorem encode_ownRow (i : Instr) : encode i &&& opcodeMask i = opcodeMatch i := by
  cases i with
  | cls | ret => rfl
  | jpAddr | callAddr | ldIAddr | jpV0Addr => exact ownRow_A _ _
  | seVxByte | sneVxByte | ldVxByte | addVxByte | rndVxByte => exact ownRow_XK _ _ _
  | seVxVy | sneVxVy | drwVxVyN => exact ownRow_XYZ _ _ _ _
  | ldVxVy | orVxVy | andVxVy | xorVxVy | addVxVy | subVxVy | subnVxVy | shrVx | shlVx => exact ownRow_XYS _ _ _ _
  | skpVx x => exact Laws.OwnRow.skpVx x
  | sknpVx x => exact Laws.OwnRow.sknpVx x
  | ldVxDt | ldVxK | ldDtVx | ldStVx | addIVx | ldFVx | ldBVx | ldMemVx | ldVxMem => exact ownRow_XS8 _ _ _

/-- The canonical word of a well-formed instruction holds its operands. -/
theorem withFields_encode {i : Instr} (h : i.wellFormed = true) : i.withFields (encode i) = i := by
  cases i with
  | cls | ret => rfl
  | jpAddr | callAddr | ldIAddr | jpV0Addr => simp only [Instr.withFields, encode, fieldNnn_wordA]
  | drwVxVyN x y n =>
    have hn : n % 16 = n := Nat.mod_eq_of_lt (of_decide_eq_true h)
    simp only [Instr.withFields, encode, fieldX_wordXYN, fieldY_wordXYN, fieldN_wordXYN, BitVec.toNat_ofNat, hn]
  | seVxByte | sneVxByte | ldVxByte | addVxByte | rndVxByte | skpVx | sknpVx | ldVxDt | ldVxK | ldDtVx | ldStVx | addIVx | ldFVx
  | ldBVx | ldMemVx | ldVxMem => simp only [Instr.withFields, encode, fieldX_wordXK, fieldKk_wordXK]
  | seVxVy | sneVxVy | ldVxVy | orVxVy | andVxVy | xorVxVy | addVxVy | subVxVy | subnVxVy | shrVx | shlVx =>
    simp only [Instr.withFields, encode, fieldX_wordXYN, fieldY_wordXYN]

theorem wellFormed_withFields (w : Word) (i : Instr) : (i.withFields w).wellFormed = true := by
  cases i with
  | drwVxVyN => exact decide_eq_true (fieldN w).isLt
  | _ => rfl

/-- Settles O1: the canonical word lies in the instruction's own row and holds its operands. -/
theorem decodeOfEncode : Obligations.DecodeOfEncode := fun i h =>
  decodeWord_eq_some_iff.mpr ⟨encode_ownRow i, withFields_encode h⟩

/-- Settles O2: the word lies in the instruction's row with its operands, and so does the canonical word, so they agree on all bits
that are not ignored. -/
theorem decodedWordHasOneMeaning : Obligations.DecodedWordHasOneMeaning := by
  intro w i h
  obtain ⟨hrow, hfields⟩ := decodeWord_eq_some_iff.mp h
  have hwf : i.wellFormed = true := hfields ▸ wellFormed_withFields w i
  exact ⟨hwf, hrow, (agree_outside_ignored_iff i w (encode i)).mpr
    ⟨hrow.trans (encode_ownRow i).symm, hfields.trans (withFields_encode hwf).symm⟩⟩

/-- Settles O3: words that agree outside the ignored bits have the same selecting bits and the same operands. -/
theorem ignoredBitsDoNotSelect : Obligations.IgnoredBitsDoNotSelect := by
  intro w w' i h hagree
  obtain ⟨hrow, hfields⟩ := decodeWord_eq_some_iff.mp h
  obtain ⟨hmask, hsame⟩ := (agree_outside_ignored_iff i w' w).mp hagree
  exact decodeWord_eq_some_iff.mpr ⟨hmask.trans hrow, hsame.trans hfields⟩

theorem decodeGroup0_eq_none_iff {w : Word} : decodeGroup0 w = none ↔ fieldN w ∉ [0x0#4, 0xE#4] := by
  unfold decodeGroup0
  split <;> simp_all

theorem nibble_mem_iff_not_mem : ∀ n : Nibble, n ∈ [0x8#4, 0x9#4, 0xA#4, 0xB#4, 0xC#4, 0xD#4, 0xF#4] ↔
    n ∉ [0x0#4, 0x1#4, 0x2#4, 0x3#4, 0x4#4, 0x5#4, 0x6#4, 0x7#4, 0xE#4] := by decide

theorem decodeGroup8_eq_none_iff {w : Word} :
    decodeGroup8 w = none ↔ fieldN w ∈ [0x8#4, 0x9#4, 0xA#4, 0xB#4, 0xC#4, 0xD#4, 0xF#4] := by
  rw [nibble_mem_iff_not_mem]
  unfold decodeGroup8
  split <;> simp_all

theorem decodeGroupE_eq_none_iff {w : Word} : decodeGroupE w = none ↔ fieldN w ∉ [0x1#4, 0xE#4] := by
  unfold decodeGroupE
  split <;> simp_all

theorem decodeGroupF_eq_none_iff {w : Word} : decodeGroupF w = none ↔
    fieldKk w ∉ [0x07#8, 0x0A#8, 0x15#8, 0x18#8, 0x1E#8, 0x29#8, 0x33#8, 0x55#8, 0x65#8] := by
  unfold decodeGroupF
  split <;> simp_all

/-- The dispatch misses no primary key. -/
theorem nibble_cases : ∀ k : Nibble, k ∈ [0x0#4, 0x1#4, 0x2#4, 0x3#4, 0x4#4, 0x5#4, 0x6#4, 0x7#4, 0x8#4, 0x9#4, 0xA#4, 0xB#4,
    0xC#4, 0xD#4, 0xE#4, 0xF#4] := by decide

/-- Settles O4: only the four groups leave words out, each those its own keys do not name. -/
theorem unknownWordsExactly : Obligations.UnknownWordsExactly := by
  intro w
  rw [← decodeGroup0_eq_none_iff, ← decodeGroup8_eq_none_iff, ← decodeGroupE_eq_none_iff, ← decodeGroupF_eq_none_iff]
  unfold decodeWord
  split
  case h_17 =>
    have := nibble_cases (fieldN1 w)
    simp_all
  all_goals
    rename_i hk
    simp [hk]

/-- Settles O5: the decoder evaluates each of the eight words. -/
theorem writtenOutWordsDecode : Obligations.WrittenOutWordsDecode := by
  unfold Obligations.WrittenOutWordsDecode
  decide

end Sys2Proof
end

section
/-! SUPPORT. What a `Running` cycle ends in, said once: it has completed its instruction, or it has taken a fault and changed
nothing else (spec/40_cycle_driver.md rule R70, spec/60_exceptions.md rule R127); and the obligations O6 to O8 and O10 to O19. -/

namespace Sys2Proof.Machine

/-! ### Fault entry -/

theorem takeFault_faulted (f : Fault) (s : State) : ¬ (s.takeFault f).NoFault := (faultCodeOf_ne f).1

/-- A faulting cycle gives the keypad latch and the tone back, so that all it leaves is the fault entry on the state it began in. -/
theorem haltAfter_takeFault (s : State) (f : Fault) : State.haltAfter s (s.latchInputs.takeFault f) = s.takeFault f := rfl

theorem finishCycle_raise (s : State) (f : Fault) : finishCycle s (raise f s.latchInputs) = raise f s := by
  rw [raise_eq, finishCycle_next, if_neg (takeFault_faulted f _), haltAfter_takeFault, raise_eq]

theorem step_of_running {s : State} (hf : s.NoFault) (hr : s.Running) : step s = runInstruction s s.latchInputs := by
  simp [step, runCycle, hf, hr]

theorem step_of_waiting {s : State} (hf : s.NoFault) (hw : s.waiting = true) :
    step s = .next s.latchInputs.resolveWait.emitOutputs := by
  simp [step, runCycle, hf, hw]

theorem step_of_halted {s : State} (hf : ¬ s.NoFault) : step s = .next s.haltedCycle := by
  simp [step, runCycle, hf]

/-- A fetch out of range ends the cycle in the fault entry. -/
theorem step_of_fetch_error {s : State} {f : Fault} (hf : s.NoFault) (hr : s.Running) (he : s.fetchWord = .error f) :
    step s = raise f s := by
  rw [step_of_running hf hr, runInstruction, fetchWord_latchInputs, he]
  exact finishCycle_raise s f

theorem State.Fetches.noFault {s : State} {w : Word} (h : s.Fetches w) : s.NoFault := h.1

theorem State.Fetches.running {s : State} {w : Word} (h : s.Fetches w) : s.Running := h.2.1

/-- A word without a row ends the cycle in the fault entry. -/
theorem State.Fetches.step_eq_raise_of_unknown {s : State} {w : Word} (h : s.Fetches w) (hd : decodeWord w = none) :
    step s = raise (.unknownInstruction w) s := by
  rw [step_of_running h.noFault h.running, runInstruction, fetchWord_latchInputs, h.fetchWord_eq]
  simp only [hd, finishCycle_raise]

theorem highByte_wordOfBytes (hi lo : Byte) : highByte (wordOfBytes hi lo) = hi := by
  apply BitVec.eq_of_toNat_eq
  rw [highByte_toNat, wordOfBytes_toNat]
  omega

theorem lowByte_wordOfBytes (hi lo : Byte) : lowByte (wordOfBytes hi lo) = lo := by
  apply BitVec.eq_of_toNat_eq
  rw [lowByte_toNat, wordOfBytes_toNat]
  omega

/-- A running state whose fetch succeeds fetches the word it answers. -/
theorem fetches_of_fetchWord {s : State} {w : Word} (hf : s.NoFault) (hr : s.Running) (h : s.fetchWord = .ok w) :
    s.Fetches w := by
  rcases fetchWord_cases s with ⟨hpc, e⟩ | ⟨-, e⟩ <;> rw [e] at h <;> cases h
  exact ⟨hf, hr, hpc, (highByte_wordOfBytes _ _).symm, (lowByte_wordOfBytes _ _).symm⟩

/-- A state fetches at most one word. -/
theorem State.Fetches.unique {s : State} {w w' : Word} (h : s.Fetches w) (h' : s.Fetches w') : w = w' := by
  have e := h.fetchWord_eq
  rw [h'.fetchWord_eq] at e
  cases e
  rfl

/-- A cycle of a running state completes the instruction of the word it fetches, keeping what no instruction writes, or is a
fault entry. -/
theorem running_step_cases {s u : State} (hf : s.NoFault) (hr : s.Running) (h : step s = .next u) :
    (∃ w i t, s.Fetches w ∧ decodeWord w = some i ∧ exec i s.latchInputs = .next t ∧ t.NoFault ∧ ExecKeeps s.latchInputs t ∧
      u = t.tickTimers.advancePc.emitOutputs) ∨
    ∃ f, u = s.takeFault f := by
  rcases step_cases h with ⟨hh, -⟩ | ⟨-, hw, -⟩ | ⟨-, -, t, hexec, hu⟩
  · exact absurd hf hh
  · exact absurd (hr.symm.trans hw) Bool.false_ne_true
  · have faulted : ∀ {f}, t = s.latchInputs.takeFault f → ∃ f, u = s.takeFault f := by
      rintro f rfl
      rw [if_neg (takeFault_faulted f _), haltAfter_takeFault] at hu
      exact ⟨f, hu⟩
    rcases hexec with ⟨f, -, ht⟩ | ⟨w, -, -, ht⟩ | ⟨w, i, hw, hd, he⟩
    · exact .inr (faulted ht)
    · exact .inr (faulted ht)
    · rcases exec_cases he with ⟨f, ht⟩ | hk
      · exact .inr (faulted ht)
      · have ⟨_, _, _, hcode, _⟩ := hk
        have ht : t.NoFault := hcode.trans hf
        rw [if_pos ht] at hu
        exact .inl ⟨w, i, t, fetches_of_fetchWord hf hr hw, hd, he, ht, hk, hu⟩

/-- A wait cycle writes the lowest pressed key to the recorded register and ends the wait, or has latched and reported only
(rule R63). -/
theorem waiting_step_cases {s u : State} (hf : s.NoFault) (hw : s.waiting = true) (h : step s = .next u) :
    (∃ k, lowestKey s.keysIn = some k ∧ u = ((s.latchInputs.setV s.waitReg (BitVec.ofNat 8 k)).clearWait).emitOutputs) ∨
    (lowestKey s.keysIn = none ∧ u = s.latchInputs.emitOutputs) := by
  rw [step_of_waiting hf hw] at h
  cases h
  rcases resolveWait_cases s.latchInputs with ⟨k, hk, e⟩ | ⟨hk, e⟩ <;> rw [e]
  · exact .inl ⟨k, hk, rfl⟩
  · exact .inr ⟨hk, rfl⟩

/-! ### The invariant -/

/-- A cycle that ends without a fault keeps the invariant when it keeps canonical memory and the fault latch and clears
`redraw_flag`. -/
theorem inv_of_latch_eq {s u : State} (hs : s.Inv) (hf : s.NoFault) (hmem : u.mem.wf = true) (hredraw : u.redrawFlag = false)
    (hcode : u.faultCode = s.faultCode) (hpc : u.faultPc = s.faultPc) (hinfo : u.faultInfo = s.faultInfo) : u.Inv := by
  obtain ⟨-, -, h7, hclear, -⟩ := hs
  obtain ⟨hpc0, hinfo0⟩ := hclear hf
  exact ⟨hmem, hredraw, fun h => h7 (hcode.symm.trans h), fun _ => ⟨hpc.trans hpc0, hinfo.trans hinfo0⟩,
    fun h => absurd (hcode.trans hf) h⟩

/-- Settles O16: a halted cycle only quiets the outputs, a wait cycle keeps memory and the latch, a completed cycle keeps what no
instruction writes, and a fault entry writes a legal code and quiets the outputs. -/
theorem everyCycleKeepsTheInvariant : Obligations.EveryCycleKeepsTheInvariant := by
  intro s u hinv h
  have ⟨hmem, hredraw, hcode, hclear, hquiet⟩ := hinv
  by_cases hf : s.NoFault
  · cases hw : s.waiting with
    | true =>
      rcases waiting_step_cases hf hw h with ⟨k, -, rfl⟩ | ⟨-, rfl⟩ <;> rw [emitOutputs_eq]
      · exact inv_of_latch_eq hinv hf hmem rfl rfl rfl rfl
      · exact inv_of_latch_eq hinv hf hmem rfl rfl rfl rfl
    | false =>
      rcases running_step_cases hf hw h with ⟨w, i, t, -, -, -, -, hk, rfl⟩ | ⟨f, rfl⟩
      · obtain ⟨-, -, -, htc, htp, hti, -, -, htm⟩ := hk
        rw [finished_eq]
        exact inv_of_latch_eq hinv hf (htm hmem) rfl htc htp hti
      · exact ⟨hmem, hredraw, (faultCodeOf_ne f).2, fun h0 => absurd h0 (takeFault_faulted f s), fun _ => ⟨rfl, rfl⟩⟩
  · rw [step_of_halted hf] at h
    cases h
    exact ⟨hmem, hredraw, hcode, hclear, fun _ => ⟨rfl, rfl⟩⟩

/-- Settles O17: the reset state is evaluated. -/
theorem resetMeetsTheInvariant : Obligations.ResetMeetsTheInvariant := by
  unfold Obligations.ResetMeetsTheInvariant
  decide

/-! ### One cycle -/

/-- Settles O6: fetching and decoding leave the execute phase and the end of the cycle. -/
theorem stepRunsTheDecodedInstruction : Obligations.StepRunsTheDecodedInstruction := fun _ _ _ hf hd => hf.step_eq hd

/-- Phases 6 to 8 write the timers, `pc`, `redraw_flag`, the outputs and the inputs, and nothing else. -/
theorem unchanged_finished (t : State) :
    Unchanged (fun p => p = .dt ∨ p = .st ∨ p = .pc ∨ p = .redrawFlag ∨ p = .outputs ∨ p = .inputs) t
      t.tickTimers.advancePc.emitOutputs := by
  rw [finished_eq]
  intro p hp
  cases p with
  | dt | st | pc | redrawFlag | outputs | inputs => simp at hp
  | faultLatch => exact ⟨rfl, rfl, rfl⟩
  | _ => rfl

/-- Settles O7: without a fault the cycle ends with phases 6 to 8. -/
theorem finishedCycleTicksAdvancesAndReports : Obligations.FinishedCycleTicksAdvancesAndReports := by
  intro before t ht
  refine ⟨t.tickTimers.advancePc.emitOutputs, ?_, ?_, unchanged_finished t⟩
  · rw [finishCycle_next, if_pos ht]
  · rw [finished_eq]
    exact ⟨countdown_toNat t.dt, countdown_toNat t.st, rfl, rfl, rfl, rfl, rfl⟩

/-- Settles O8: phases 1 and 2 latch and sample, neither a wait nor an instruction writes either part, and a fault entry ends
halted. -/
theorem cycleLatchesKeysAndSamplesTone : Obligations.CycleLatchesKeysAndSamplesTone := by
  intro s u h hu
  by_cases hf : s.NoFault
  · cases hw : s.waiting with
    | true => rcases waiting_step_cases hf hw h with ⟨k, -, rfl⟩ | ⟨-, rfl⟩ <;> rw [emitOutputs_eq] <;> exact ⟨rfl, rfl⟩
    | false =>
      rcases running_step_cases hf hw h with ⟨w, i, t, -, -, -, -, hk, rfl⟩ | ⟨f, rfl⟩
      · obtain ⟨hkeys, -, htone, -⟩ := hk
        rw [finished_eq]
        exact ⟨hkeys, htone⟩
      · exact absurd hu (takeFault_faulted f s)
  · rw [step_of_halted hf] at h
    cases h
    exact absurd hu hf

theorem unchanged_latchInputs (s : State) : Unchanged (fun p => p = .keypad ∨ p = .outputs) s s.latchInputs := by
  intro p hp
  cases p with
  | keypad | outputs => simp at hp
  | _ => simp [Part.Same, State.latchInputs]

theorem unchanged_emitOutputs (s : State) :
    Unchanged (fun p => p = .redrawFlag ∨ p = .outputs ∨ p = .inputs) s s.emitOutputs := by
  intro p hp
  cases p with
  | redrawFlag | outputs | inputs => simp at hp
  | _ => simp [Part.Same, State.emitOutputs]

theorem unchanged_clearWait (s : State) : Unchanged (fun p => p = .waiting) s s.clearWait := by
  intro p hp
  cases p with
  | waiting => exact absurd rfl hp
  | _ => simp [Part.Same]

/-- A wait that ends writes the recorded register and the wait, around them the cycle the keypad latch, `redraw_flag`, the outputs
and the inputs. -/
theorem unchanged_waitEnds (s : State) (b : Byte) :
    Unchanged (fun p => p = .v s.waitReg ∨ p = .waiting ∨ p = .keypad ∨ p = .redrawFlag ∨ p = .outputs ∨ p = .inputs) s
      ((s.latchInputs.setV s.waitReg b).clearWait).emitOutputs :=
  (((unchanged_latchInputs s).trans (unchanged_setV _ s.waitReg b)).trans (unchanged_clearWait _)).trans
    (unchanged_emitOutputs _) |>.mono fun p hp => by tauto

theorem unchanged_waitPersists (s : State) :
    Unchanged (fun p => p = .keypad ∨ p = .redrawFlag ∨ p = .outputs ∨ p = .inputs) s s.latchInputs.emitOutputs :=
  (unchanged_latchInputs s).trans (unchanged_emitOutputs _) |>.mono fun p hp => by tauto

/-- A pressed key with none pressed below it is the one the scan finds. -/
theorem lowestKey_eq_some {keys : BitVec 16} {k : Nat} (hk : k < 16) (hdown : keys.getLsbD k = true)
    (hlow : ∀ j < k, keys.getLsbD j = false) : lowestKey keys = some k :=
  List.find?_range_eq_some.mpr ⟨hdown, List.mem_range.mpr hk, fun j hj => by simp [hlow j hj]⟩

theorem lowestKey_zero : lowestKey 0#16 = none := by decide

/-- Settles O10: the wait cycle scans its own snapshot; with a lowest key down it writes that key and ends the wait, with no key
down it leaves both. -/
theorem keyWaitTakesTheLowestPressedKey : Obligations.KeyWaitTakesTheLowestPressedKey := by
  intro s hf hw
  rw [step_of_waiting hf hw, State.resolveWait, show s.latchInputs.keypad = s.keysIn from rfl]
  refine ⟨fun k hk hdown hlow => ?_, fun hnone => ?_⟩
  · rw [lowestKey_eq_some hk hdown hlow]
    have hkey : (s.latchInputs.setV s.waitReg (BitVec.ofNat 8 k)).getV s.waitReg = BitVec.ofNat 8 k := by
      rw [getV_setV, if_pos rfl]
    exact ⟨_, rfl, ⟨hkey, rfl⟩, unchanged_waitEnds s _⟩
  · rw [hnone, lowestKey_zero]
    exact ⟨_, rfl, hw, unchanged_waitPersists s⟩

/-- Settles O11: by induction on the number of cycles, as a halted cycle is one of a halted state. -/
theorem haltIsSticky : Obligations.HaltIsSticky := by
  intro s k hs
  rw [run_succ_of_next (step_of_halted hs)]
  induction k with
  | zero => rfl
  | succ k ih => exact (run_succ_of_next (step_of_halted (s := s.haltedCycle) hs)).trans ih

/-- Settles O12: the only cycle that ends halted from a state without a fault is the fault entry. -/
theorem faultingCycleWritesOnlyTheLatch : Obligations.FaultingCycleWritesOnlyTheLatch := by
  intro s u hf h hu
  cases hw : s.waiting with
  | true => rcases waiting_step_cases hf hw h with ⟨k, -, rfl⟩ | ⟨-, rfl⟩ <;> exact absurd hf hu
  | false =>
    rcases running_step_cases hf hw h with ⟨w, i, t, -, -, -, ht, -, rfl⟩ | ⟨f, rfl⟩
    · exact absurd ht hu
    · obtain ⟨t, ht, -, hpc, -, hredraw, htone, hframe⟩ := raise_takesFault f s rfl rfl
      cases ht
      exact ⟨hpc, hredraw, htone, hframe⟩

/-- Settles O13: the fetch names the larger of `pc` and 4096, which is 4096 at 4095 only. -/
theorem fetchOutOfRangeFaults : Obligations.FetchOutOfRangeFaults := by
  intro s hf hr hpc
  rcases fetchWord_cases s with ⟨hin, -⟩ | ⟨-, e⟩
  · omega
  · rw [step_of_fetch_error hf hr e]
    refine raise_takesFault _ s rfl ((faultInfo_memory s.pc).trans ?_)
    split
    next h => rw [h]; rfl
    next h =>
      have : s.pc.toNat ≠ 4095 := fun e => h (BitVec.eq_of_toNat_eq e)
      rw [max_eq_left (by omega), BitVec.ofNat_toNat, BitVec.setWidth_eq]

/-- Settles O14: an unknown word ends the cycle in the fault entry with the word as its info. -/
theorem unknownWordHaltsTheCore : Obligations.UnknownWordHaltsTheCore := by
  intro s w hf hd
  rw [hf.step_eq_raise_of_unknown hd]
  exact raise_takesFault _ s rfl rfl

/-- The answer of an instruction that stores bytes at `I` (rule R100). -/
def State.storeAnswer (bytes : List Byte) (s : State) : Result :=
  match s.storeBytes s.base bytes with
  | .error f => raise f s
  | .ok t => .next t

theorem exec_ldBVx (x : Reg) (s : State) : exec (.ldBVx x) s = s.storeAnswer (bcdDigits (s.getV x)) := rfl

theorem exec_ldMemVx (x : Reg) (s : State) : exec (.ldMemVx x) s = s.storeAnswer (s.regBytes 0 (x.toNat + 1)) := rfl

/-- Every execute phase answers a next state: a stack, memory or key fault is one too. -/
theorem exec_answers (i : Instr) (s : State) : ∃ t, exec i s = .next t := by
  have store (bytes : List Byte) : ∃ t, s.storeAnswer bytes = .next t := by
    rcases storeBytes_cases s s.base bytes with ⟨-, e⟩ | ⟨-, e⟩ <;> rw [State.storeAnswer, e] <;> exact ⟨_, rfl⟩
  cases i with
  | ret => rcases pop_cases s with ⟨-, e⟩ | ⟨-, e⟩ <;> rw [exec, execRet, e] <;> exact ⟨_, rfl⟩
  | callAddr => rcases push_cases s s.pc with ⟨-, e⟩ | ⟨-, u, e, -⟩ <;> rw [exec, execCallAddr, e] <;> exact ⟨_, rfl⟩
  | ldBVx x => exact store _
  | ldMemVx x => exact store _
  | ldVxMem x =>
    rcases loadBytes_cases s s.base (x.toNat + 1) with ⟨-, e⟩ | ⟨-, e⟩ <;> rw [exec, execLdVxMem, e] <;> exact ⟨_, rfl⟩
  | drwVxVyN x y n =>
    rcases loadBytes_cases s s.base n with ⟨-, e⟩ | ⟨-, e⟩ <;> rw [exec, execDrwVxVyN, e] <;> exact ⟨_, rfl⟩
  | skpVx => rw [exec, execSkpVx]; split <;> exact ⟨_, rfl⟩
  | sknpVx => rw [exec, execSknpVx]; split <;> exact ⟨_, rfl⟩
  | _ => exact ⟨_, rfl⟩

theorem finishCycle_answers (before : State) {r : Result} (h : ∃ t, r = .next t) : ∃ u, finishCycle before r = .next u := by
  obtain ⟨t, rfl⟩ := h
  exact ⟨_, finishCycle_next before t⟩

/-- Settles O15: a cycle of any of the three kinds answers a next state, as every execute phase does. -/
theorem everyCycleAnswersANextState : Obligations.EveryCycleAnswersANextState := by
  intro s
  by_cases hf : s.NoFault
  · cases hw : s.waiting with
    | true => exact ⟨_, step_of_waiting hf hw⟩
    | false =>
      rw [step_of_running hf hw, runInstruction]
      split
      · exact finishCycle_answers s ⟨_, rfl⟩
      · split
        · exact finishCycle_answers s ⟨_, rfl⟩
        · exact finishCycle_answers s (exec_answers _ _)
  · exact ⟨_, step_of_halted hf⟩

/-! ### Reset -/

theorem resetWith_fitting {image : List Byte} (h : image.length ≤ 3584) :
    State.resetWith image = State.reset.setMem (State.reset.mem.writeBytes 0x200 image) := if_pos h

theorem resetWith_long {image : List Byte} (h : 3584 < image.length) :
    State.resetWith image = State.reset.takeFault (.programTooLong image.length) := if_neg (not_le.mpr h)

theorem atReset_setMem (m : Memory) : (State.reset.setMem m).AtReset := by
  refine ⟨fun r => ?_, rfl, rfl, rfl, fun q => ?_, rfl, rfl, rfl, rfl, rfl, rfl, rfl, rfl, rfl⟩
  · simp [State.getV, State.reset]
  · exact pixel_clear q

/-- An address above the glyph table that memory does not list reads as 0. -/
theorem unlisted_of_ge {a : Nat} (h : 0x50 ≤ a) : Memory.unlisted a = 0#8 :=
  List.getD_eq_default _ _ h

/-- Settles O18: the image is written to canonical memory below 4096, so it is read back where it was written and the reset contents
are read elsewhere. -/
theorem resetLoadsAFittingImage : Obligations.ResetLoadsAFittingImage := by
  intro image hlen
  have hwf : State.reset.mem.wf = true := rfl
  have hfits : 0x200 + image.length ≤ 4096 := by omega
  rw [resetWith_fitting hlen]
  refine ⟨⟨Memory.writeBytes_wf hwf hfits, resetMeetsTheInvariant.2⟩, atReset_setMem _, fun a _ => ?_, rfl⟩
  rw [readByte_setMem, Memory.read_writeBytes hwf hfits]
  by_cases hglyph : a < 0x50
  · rw [if_pos hglyph, if_neg (by omega)]
    rfl
  · rw [if_neg hglyph]
    split
    · rfl
    · exact unlisted_of_ge (by omega)

/-- Settles O19: an image that is too long is the fault entry on the reset state. -/
theorem resetRejectsALongImage : Obligations.ResetRejectsALongImage := by
  intro image hlen
  rw [resetWith_long hlen]
  exact ⟨raise_takesFault (.programTooLong image.length) State.reset rfl rfl, rfl⟩

end Sys2Proof.Machine
end

section
/-! SUPPORT. Every row of the opcode map selects its instruction (spec/30_encoding.md rules R48, R50). -/

namespace Sys2Proof.Machine

/-- An instruction whose operands are the fields of the word is selected by its own row. -/
theorem selects_row {mask pattern : Word} {instr : Word → Instr}
    (h : ∀ w, opcodeMask (instr w) = mask ∧ opcodeMatch (instr w) = pattern ∧ (instr w).withFields w = instr w) :
    Selects mask pattern instr := by
  intro w hw
  obtain ⟨hmask, hmatch, hfields⟩ := h w
  rw [decodeWord_of_row (instr w) (by rw [hmask, hmatch, hw]), hfields]

theorem Completes.mono {written written' : Part → Prop} {s : State} {r : Result} {holds : State → Prop}
    (h : Completes written s r holds) (hw : ∀ p, written p → written' p) : Completes written' s r holds :=
  have ⟨t, hr, ht, hframe⟩ := h
  ⟨t, hr, ht, hframe.mono hw⟩

end Sys2Proof.Machine
end

section
/-! SUPPORT. The control transfers `RET`, `JP addr`, `CALL addr` and `JP V0,addr` at both levels (spec/41_control_flow.md), and
the obligations O25, O26, O27, O32 and O56. -/

namespace Sys2Proof.Machine

/-! ### Targets -/

/-- The pre-offset target as a number: it wraps below 2 (decision D3). -/
theorem preOffset_toNat (nnn : Addr) : (preOffset nnn).toNat = (nnn.toNat + 65534) % 65536 := by
  rw [preOffset, BitVec.toNat_sub, extendAddr_toNat, BitVec.toNat_ofNat]
  omega

/-- The advance of phase 7 undoes the pre-offset. -/
theorem preOffset_add_two (nnn : Addr) : preOffset nnn + 2#16 = nnn.setWidth 16 := BitVec.sub_add_cancel _ _

/-- With pre-offset 0 the target is the exact sum, which fits in 16 bits. -/
theorem jumpV0Target_toNat (nnn : Addr) (b : Byte) :
    (jumpV0Target nnn b Config.jpV0Preoffset).toNat = nnn.toNat + b.toNat := by
  have hb : (extendByte b).toNat = b.toNat := BitVec.toNat_setWidth_of_le (by decide)
  have hsub : jumpV0Target nnn b Config.jpV0Preoffset = extendAddr nnn + extendByte b := BitVec.sub_zero _
  rw [hsub, BitVec.toNat_add, extendAddr_toNat, hb]
  omega

/-- Settles O26: key 1 selects it, its execute phase writes the pre-offset target, and phase 7 undoes the pre-offset. -/
theorem jpGoesToItsAddress : Obligations.JpGoesToItsAddress := by
  have hsel : Selects 0xF000#16 0x1000#16 fun w => .jpAddr (fieldNnn w) := selects_row fun _ => ⟨rfl, rfl, rfl⟩
  refine ⟨hsel, fun s nnn => ⟨_, rfl, preOffset_toNat nnn, unchanged_setPc s _⟩, fun s w hf hw => ?_⟩
  rw [← preOffset_add_two]
  exact hf.endsWithPc (hsel w hw) rfl hf.noFault

/-- Settles O32: key B selects it, its execute phase writes the sum, and phase 7 adds 2. -/
theorem jpV0LandsTwoBeyondTheSum : Obligations.JpV0LandsTwoBeyondTheSum := by
  have hsel : Selects 0xF000#16 0xB000#16 fun w => .jpV0Addr (fieldNnn w) := selects_row fun _ => ⟨rfl, rfl, rfl⟩
  refine ⟨hsel, fun s nnn => ⟨_, rfl, jumpV0Target_toNat nnn _, unchanged_setPc s _⟩, fun s w hf hw => ?_⟩
  have htarget : jumpV0Target (fieldNnn w) (s.getV 0#4) Config.jpV0Preoffset + 2#16 =
      BitVec.ofNat 16 ((fieldNnn w).toNat + (s.getV 0#4).toNat + 2) := by
    apply BitVec.eq_of_toNat_eq
    rw [BitVec.toNat_add, jumpV0Target_toNat, BitVec.toNat_ofNat, BitVec.toNat_ofNat]
  rw [← htarget]
  exact hf.endsWithPc (hsel w hw) rfl hf.noFault

/-! ### The return stack -/

theorem exec_ret {s : State} (h : s.sp ≠ 0#4) : exec .ret s = .next ((s.setSp (s.sp - 1#4)).setPc (s.slot s.sp)) := by
  rcases pop_cases s with ⟨h0, -⟩ | ⟨-, e⟩
  · exact absurd h0 h
  · rw [exec, execRet, e]

theorem exec_ret_underflow {s : State} (h : s.sp = 0#4) : exec .ret s = raise .stackUnderflow s := by
  rcases pop_cases s with ⟨-, e⟩ | ⟨hne, -⟩
  · rw [exec, execRet, e]
  · exact absurd h hne

/-- `CALL` with room writes the next slot, `sp` and `pc`. -/
theorem exec_callAddr {s : State} (nnn : Addr) (h : s.sp ≠ 15#4) :
    ∃ u, exec (.callAddr nnn) s = .next (((s.setSp (s.sp + 1#4)).setStack u).setPc (preOffset nnn)) ∧
      ∀ k, (s.setStack u).slot k = if k = s.sp + 1#4 then s.pc else s.slot k := by
  rcases push_cases s s.pc with ⟨h15, -⟩ | ⟨-, u, e, hslot⟩
  · exact absurd h15 h
  · exact ⟨u, by rw [exec, execCallAddr, e], hslot⟩

theorem exec_callAddr_overflow {s : State} (nnn : Addr) (h : s.sp = 15#4) :
    exec (.callAddr nnn) s = raise .stackOverflow s := by
  rcases push_cases s s.pc with ⟨-, e⟩ | ⟨hne, -⟩
  · rw [exec, execCallAddr, e]
  · exact absurd h hne

theorem completes_ret {s : State} (h : s.sp ≠ 0#4) :
    Completes (fun p => p = .pc ∨ p = .sp) s (exec .ret s) fun t => t.pc = s.slot s.sp ∧ t.sp.toNat = s.sp.toNat - 1 := by
  refine ⟨_, exec_ret h, ⟨rfl, ?_⟩, fun p hp => ?_⟩
  · rw [setPc_sp, setSp_sp]
    bv_omega
  · cases p with
    | pc | sp => simp at hp
    | _ => simp [Part.Same]

theorem completes_callAddr {s : State} (nnn : Addr) (h : s.sp ≠ 15#4) :
    Completes (fun p => p = .pc ∨ p = .sp ∨ p = .slot (s.sp + 1#4)) s (exec (.callAddr nnn) s) fun t =>
      t.sp.toNat = s.sp.toNat + 1 ∧ t.slot t.sp = s.pc ∧ t.pc.toNat = (nnn.toNat + 65534) % 65536 := by
  obtain ⟨u, e, hslot⟩ := exec_callAddr nnn h
  refine ⟨_, e, ⟨?_, (hslot _).trans (if_pos rfl), preOffset_toNat nnn⟩, fun p hp => ?_⟩
  · rw [setPc_sp, setStack_sp, setSp_sp]
    bv_omega
  · cases p with
    | pc | sp => simp at hp
    | slot k =>
      have hk : k ≠ s.sp + 1#4 := fun e => hp (.inr (.inr (congrArg Part.slot e)))
      exact (hslot k).trans (if_neg hk)
    | _ => simp [Part.Same]

/-- Settles O25: keys 0 and E select it; it pops when `sp` is not 0, with phase 7 adding 2, and underflows otherwise. -/
theorem retPopsTheCallAddress : Obligations.RetPopsTheCallAddress := by
  have hsel : Selects 0xF00F#16 0x000E#16 fun _ => .ret := selects_row fun _ => ⟨rfl, rfl, rfl⟩
  refine ⟨hsel, fun s h => completes_ret h, fun s h => ?_, fun s w hf hw h => ?_⟩
  · rw [exec_ret_underflow h]
    exact raise_takesFault _ s rfl rfl
  · exact hf.endsWithPc (hsel w hw) (exec_ret (s := s.latchInputs) h) hf.noFault

/-- Settles O27: key 2 selects it; it pushes when `sp` is not 15, with phase 7 undoing the pre-offset, and overflows otherwise. -/
theorem callPushesItsOwnAddress : Obligations.CallPushesItsOwnAddress := by
  have hsel : Selects 0xF000#16 0x2000#16 fun w => .callAddr (fieldNnn w) := selects_row fun _ => ⟨rfl, rfl, rfl⟩
  refine ⟨hsel, fun s nnn h => completes_callAddr nnn h, fun s nnn h => ?_, fun s w hf hw h => ?_⟩
  · rw [exec_callAddr_overflow nnn h]
    exact raise_takesFault _ s rfl rfl
  · obtain ⟨u, e, -⟩ := exec_callAddr (s := s.latchInputs) (fieldNnn w) h
    rw [← preOffset_add_two]
    exact hf.endsWithPc (hsel w hw) e hf.noFault

/-- Settles O56: the slot that `CALL` writes is the one `RET` reads, and the registers and `I` are no part of the stack. -/
theorem callThenRetRoundTrip : Obligations.CallThenRetRoundTrip := by
  intro s nnn v a h
  obtain ⟨u, e, hslot⟩ := exec_callAddr nnn h
  have hsp : s.sp + 1#4 ≠ 0#4 := by bv_omega
  exact ⟨_, _, e, exec_ret hsp, (hslot _).trans (if_pos rfl), BitVec.add_sub_cancel _ _⟩

end Sys2Proof.Machine
end

section
/-! SUPPORT. Results and flags of the arithmetic and shift instructions as numbers, the two orders in which they are written
(spec/42_load_and_alu.md rules R85, R98), and the obligations O34, O36, O38 to O43 and O45. -/

namespace Sys2Proof.Machine

/-! ### Results and flags as numbers -/

theorem addResult_toNat (a b : Byte) : (addResult a b).toNat = (a.toNat + b.toNat) % 256 := BitVec.toNat_ofNat _ 8

theorem subResult_toNat (a b : Byte) : (subResult a b).toNat = (a.toNat + 256 - b.toNat) % 256 := by
  rw [subResult, BitVec.toNat_ofInt]
  omega

theorem shrResult_toNat (a : Byte) : (shrResult a).toNat = a.toNat / 2 := by
  rw [shrResult, BitVec.toNat_ofNat]
  omega

theorem shlResult_toNat (a : Byte) : (shlResult a).toNat = a.toNat * 2 % 256 := BitVec.toNat_ofNat _ 8

theorem flagByte_decide (c : Prop) [Decidable c] : flagByte (decide c) = if c then 1#8 else 0#8 := by
  simp only [flagByte, decide_eq_true_eq]

theorem flagByte_toNat (f : Bool) : (flagByte f).toNat = f.toNat := by
  cases f <;> rfl

theorem shrFlag_toNat (a : Byte) : (flagByte (shrFlag a)).toNat = a.toNat % 2 := by
  rw [flagByte_toNat, shrFlag, BitVec.getLsbD, Nat.toNat_testBit, pow_zero, Nat.div_one]

theorem shlFlag_toNat (a : Byte) : (flagByte (shlFlag a)).toNat = a.toNat / 128 := by
  rw [flagByte_toNat, shlFlag, BitVec.getLsbD, Nat.toNat_testBit]
  omega

/-! ### The two orders of result and flag -/

theorem unchanged_setV_setV (s : State) (x y : Reg) (a b : Byte) :
    Unchanged (fun p => p = .v x ∨ p = .v y) s ((s.setV x a).setV y b) :=
  (unchanged_setV s x a).trans (unchanged_setV _ y b)

/-- Result first, flag second: the flag stands whatever `x` is. -/
theorem completes_resultThenFlag (s : State) (x : Reg) {r : Byte} {n : Nat} (hr : r.toNat = n) (c : Prop) [Decidable c] :
    Completes (fun p => p = .v x ∨ p = .v flagReg) s (.next (s.resultThenFlag x r (decide c))) fun t =>
      (x ≠ flagReg → (t.getV x).toNat = n) ∧ t.getV flagReg = if c then 1#8 else 0#8 := by
  refine ⟨_, rfl, ⟨fun hx => ?_, ?_⟩, unchanged_setV_setV s x flagReg r _⟩
  · simp [State.resultThenFlag, hx, hr]
  · simp [State.resultThenFlag, flagByte_decide]

/-- Flag first, result second: the result stands whatever `x` is. -/
theorem completes_flagThenResult (s : State) (x : Reg) {r : Byte} {f : Bool} {n m : Nat} (hr : r.toNat = n)
    (hf : (flagByte f).toNat = m) :
    Completes (fun p => p = .v x ∨ p = .v flagReg) s (.next (s.flagThenResult x r f)) fun t =>
      (t.getV x).toNat = n ∧ (x ≠ flagReg → (t.getV flagReg).toNat = m) := by
  refine ⟨_, rfl, ⟨?_, fun hx => ?_⟩, (unchanged_setV_setV s flagReg x _ r).mono fun p hp => hp.symm⟩
  · simp [State.flagThenResult, hr]
  · simp [State.flagThenResult, hx.symm, hf]

/-- Settles O34: key 7 selects it, and it writes sum, then carry. -/
theorem addByteSetsCarry : Obligations.AddByteSetsCarry :=
  ⟨selects_row fun _ => ⟨rfl, rfl, rfl⟩, fun s x _ => completes_resultThenFlag s x (addResult_toNat _ _) _⟩

/-- Settles O38: key 8 with fourth nibble 4 selects it, and it writes sum, then carry. -/
theorem addRegistersSetsCarry : Obligations.AddRegistersSetsCarry :=
  ⟨selects_row fun _ => ⟨rfl, rfl, rfl⟩, fun s x _ => completes_resultThenFlag s x (addResult_toNat _ _) _⟩

/-- Settles O39: key 8 with fourth nibble 5 selects it, and it writes difference, then not-borrow. -/
theorem subSetsNotBorrow : Obligations.SubSetsNotBorrow :=
  ⟨selects_row fun _ => ⟨rfl, rfl, rfl⟩, fun s x _ => completes_resultThenFlag s x (subResult_toNat _ _) _⟩

/-- Settles O40: key 8 with fourth nibble 7 selects it, and it writes the reversed difference, then its not-borrow. -/
theorem subnSetsNotBorrow : Obligations.SubnSetsNotBorrow :=
  ⟨selects_row fun _ => ⟨rfl, rfl, rfl⟩, fun s x _ => completes_resultThenFlag s x (subResult_toNat _ _) _⟩

/-- Settles O41: key 8 with fourth nibble 6 selects it, and it writes the low bit, then the half. -/
theorem shrShiftsOutTheLowBit : Obligations.ShrShiftsOutTheLowBit :=
  ⟨selects_row fun _ => ⟨rfl, rfl, rfl⟩, fun s x => completes_flagThenResult s x (shrResult_toNat _) (shrFlag_toNat _)⟩

/-- Settles O42: key 8 with fourth nibble E selects it, and it writes the high bit, then the double. -/
theorem shlShiftsOutTheHighBit : Obligations.ShlShiftsOutTheHighBit :=
  ⟨selects_row fun _ => ⟨rfl, rfl, rfl⟩, fun s x => completes_flagThenResult s x (shlResult_toNat _) (shlFlag_toNat _)⟩

/-- Settles O36: key 8 with fourth nibble 1 selects it, and it writes the OR to `V[x]`. -/
theorem orIsBitwise : Obligations.OrIsBitwise :=
  ⟨selects_row fun _ => ⟨rfl, rfl, rfl⟩, fun s x y => (completes_setV s x (s.getV x ||| s.getV y)).imp fun t ht k _ => by
    rw [ht, BitVec.getLsbD_or]⟩

/-- Settles O43: key C selects it, and it writes the masked byte, in which no bit outside `kk` is left. -/
theorem rndMasksTheRandomByte : Obligations.RndMasksTheRandomByte :=
  ⟨selects_row fun _ => ⟨rfl, rfl, rfl⟩, fun s x kk => (completes_setV s x (s.rndIn &&& kk)).imp fun t ht =>
    ⟨ht, by rw [ht, BitVec.and_assoc, BitVec.and_not_self]; exact BitVec.and_zero⟩⟩

/-- Settles O45: key F with low byte `0x1E` selects it, and it writes the 16-bit sum to `I`. -/
theorem addRegisterToIWraps : Obligations.AddRegisterToIWraps := by
  refine ⟨selects_row fun _ => ⟨rfl, rfl, rfl⟩, fun s x =>
    (completes_setI s (s.regI + extendByte (s.getV x))).imp fun t ht => ?_⟩
  have hb : (extendByte (s.getV x)).toNat = (s.getV x).toNat := BitVec.toNat_setWidth_of_le (by decide)
  rw [ht, BitVec.toNat_add, hb]

end Sys2Proof.Machine
end

section
/-! SUPPORT. The keypad and timer instructions at both levels (spec/45_keypad_and_timers.md), and the obligations O52 to O55. -/

namespace Sys2Proof.Machine

/-! ### The key skips -/

theorem exec_skpVx {s : State} {x : Reg} (h : (s.getV x).toNat ≤ 15) :
    exec (.skpVx x) s = .next (s.skipIf (decide (s.keypad.getLsbD (s.getV x).toNat = true))) := by
  rw [exec, execSkpVx, if_neg (not_lt.mpr h), Bool.decide_eq_true]
  rfl

theorem exec_sknpVx {s : State} {x : Reg} (h : (s.getV x).toNat ≤ 15) :
    exec (.sknpVx x) s = .next (s.skipIf (decide (s.keypad.getLsbD (s.getV x).toNat = false))) := by
  rw [exec, execSknpVx, if_neg (not_lt.mpr h), Bool.decide_eq_false]
  rfl

theorem exec_skpVx_out_of_range {s : State} {x : Reg} (h : 15 < (s.getV x).toNat) :
    exec (.skpVx x) s = raise (.keyIndexOutOfRange (s.getV x)) s := if_pos h

theorem exec_sknpVx_out_of_range {s : State} {x : Reg} (h : 15 < (s.getV x).toNat) :
    exec (.sknpVx x) s = raise (.keyIndexOutOfRange (s.getV x)) s := if_pos h

/-- Settles O52: keys E with E or 1 select them; up to 15 each is a skip on the latch, which in a cycle is that cycle's snapshot, and
above 15 a fault entry. -/
theorem keySkipsTestTheLatchedKey : Obligations.KeySkipsTestTheLatchedKey := by
  have hskp : Selects 0xF00F#16 0xE00E#16 fun w => .skpVx (fieldX w) := selects_row fun _ => ⟨rfl, rfl, rfl⟩
  have hsknp : Selects 0xF00F#16 0xE001#16 fun w => .sknpVx (fieldX w) := selects_row fun _ => ⟨rfl, rfl, rfl⟩
  refine ⟨hskp, hsknp, fun s x => ⟨fun h => ?_, fun h => ?_⟩, fun s w hf h => ⟨fun hw => ?_, fun hw => ?_⟩⟩
  · rw [exec_skpVx h, exec_sknpVx h]
    exact ⟨completes_skipIf s _, completes_skipIf s _⟩
  · rw [exec_skpVx_out_of_range h, exec_sknpVx_out_of_range h]
    exact ⟨raise_takesFault _ s rfl rfl, raise_takesFault _ s rfl rfl⟩
  · exact hf.endsWithPc_skipIf (hskp w hw) (exec_skpVx (s := s.latchInputs) h)
  · exact hf.endsWithPc_skipIf (hsknp w hw) (exec_sknpVx (s := s.latchInputs) h)

/-! ### The timers -/

theorem unchanged_setDt (s : State) (b : Byte) : Unchanged (fun p => p = .dt) s (s.setDt b) := by
  intro p hp
  cases p with
  | dt => exact absurd rfl hp
  | _ => simp [Part.Same]

theorem unchanged_setSt (s : State) (b : Byte) : Unchanged (fun p => p = .st) s (s.setSt b) := by
  intro p hp
  cases p with
  | st => exact absurd rfl hp
  | _ => simp [Part.Same]

theorem unchanged_setWait (s : State) (x : Reg) : Unchanged (fun p => p = .waiting ∨ p = .waitReg) s (s.setWait x) := by
  intro p hp
  cases p with
  | waiting | waitReg => simp at hp
  | _ => simp [Part.Same]

/-- Settles O53: key F with low byte `0x07` selects it; it copies `DT`, and the tick of phase 6 comes after. -/
theorem readDelayTimer : Obligations.ReadDelayTimer := by
  have hsel : Selects 0xF0FF#16 0xF007#16 fun w => .ldVxDt (fieldX w) := selects_row fun _ => ⟨rfl, rfl, rfl⟩
  refine ⟨hsel, fun s x => completes_setV s x s.dt, fun s w hf hw => ?_⟩
  have hread : (s.latchInputs.setV (fieldX w) s.dt).getV (fieldX w) = s.dt := by rw [getV_setV, if_pos rfl]
  have hstep := hf.step_eq_finished (t := s.latchInputs.setV (fieldX w) s.dt) (hsel w hw) rfl hf.noFault
  rw [finished_eq] at hstep
  exact ⟨_, hstep, hread, countdown_toNat s.dt⟩

/-- Settles O54: key F with low byte `0x0A` selects it; it enters the wait, between the latching and the end of an ordinary cycle. -/
theorem waitForKeyBeginsTheWait : Obligations.WaitForKeyBeginsTheWait := by
  have hsel : Selects 0xF0FF#16 0xF00A#16 fun w => .ldVxK (fieldX w) := selects_row fun _ => ⟨rfl, rfl, rfl⟩
  refine ⟨hsel, fun s x => ⟨_, rfl, ⟨rfl, rfl⟩, unchanged_setWait s x⟩, fun s w hf hw => ?_⟩
  have hstep := hf.step_eq_finished (t := s.latchInputs.setWait (fieldX w)) (hsel w hw) rfl hf.noFault
  refine ⟨_, hstep, ?_, ?_⟩
  · rw [finished_eq]
    exact ⟨rfl, rfl, rfl, countdown_toNat s.dt, countdown_toNat s.st⟩
  · exact ((unchanged_latchInputs s).trans (unchanged_setWait _ _)).trans (unchanged_finished _) |>.mono fun p hp => by tauto

/-- Settles O55: key F with low byte `0x15` or `0x18` selects them; each writes its timer, which phase 6 then counts down, and the
tone was sampled before. -/
theorem loadTimersThenTick : Obligations.LoadTimersThenTick := by
  have hdt : Selects 0xF0FF#16 0xF015#16 fun w => .ldDtVx (fieldX w) := selects_row fun _ => ⟨rfl, rfl, rfl⟩
  have hst : Selects 0xF0FF#16 0xF018#16 fun w => .ldStVx (fieldX w) := selects_row fun _ => ⟨rfl, rfl, rfl⟩
  refine ⟨hdt, hst, fun s x => ⟨⟨_, rfl, rfl, unchanged_setDt s _⟩, ⟨_, rfl, rfl, unchanged_setSt s _⟩⟩,
    fun s w hf => ⟨fun hw => ?_, fun hw => ?_⟩⟩
  · have hstep := hf.step_eq_finished (t := s.latchInputs.setDt (s.getV (fieldX w))) (hdt w hw) rfl hf.noFault
    rw [finished_eq] at hstep
    exact ⟨_, hstep, countdown_toNat _⟩
  · have hstep := hf.step_eq_finished (t := s.latchInputs.setSt (s.getV (fieldX w))) (hst w hw) rfl hf.noFault
    rw [finished_eq] at hstep
    exact ⟨_, hstep, countdown_toNat _, rfl⟩

end Sys2Proof.Machine
end

section
/-! SUPPORT. The store that `LD B,Vx` and `LD [I],Vx` share and the load of `LD Vx,[I]` (spec/43_index_and_memory.md rules R100,
R104 to R106), and the obligations O47 to O49, O57 and O59. -/

namespace Sys2Proof.Machine

/-! ### Writes outside an address, whatever the form of memory -/

namespace Memory

/-- A write leaves every other address alone, in canonical memory or not. -/
theorem read_write_ne (m : Memory) {a c : Nat} (b : Byte) (h : c ≠ a) : (write m a b).read c = m.read c := by
  have hac : a ≠ c := h.symm
  induction m with
  | nil =>
    rw [write]
    split
    · rfl
    · simp only [read, if_neg hac]
  | cons e rest ih =>
    obtain ⟨a', b'⟩ := e
    rw [write]
    split
    · split
      · rfl
      · rw [read, if_neg hac]
    · split
      next heq =>
        subst heq
        split
        · rw [read, if_neg hac]
        · rw [read, if_neg hac, read, if_neg hac]
      next => rw [read, read, ih]

theorem read_writeBytes_of_not_mem (m : Memory) {a c : Nat} (bs : List Byte) (h : ¬ (a ≤ c ∧ c < a + bs.length)) :
    (m.writeBytes a bs).read c = m.read c := by
  induction bs generalizing m a with
  | nil => rfl
  | cons b bs ih =>
    rw [List.length_cons] at h
    rw [writeBytes, ih _ (by omega), read_write_ne _ _ (by omega)]

end Memory

/-! ### The range-checked store -/

theorem storeAnswer_inRange {s : State} {bytes : List Byte} (h : s.InRange bytes.length) :
    s.storeAnswer bytes = .next (s.setMem (s.mem.writeBytes s.regI.toNat bytes)) := by
  rcases storeBytes_cases s s.base bytes with ⟨-, e⟩ | ⟨hout, -⟩
  · rw [State.storeAnswer, e]
    rfl
  · exact absurd h hout

theorem storeAnswer_out_of_range {s : State} {bytes : List Byte} (h : ¬ s.InRange bytes.length) :
    s.storeAnswer bytes = raise (.memoryOutOfRange (max s.regI.toNat 4096)) s := by
  rcases storeBytes_cases s s.base bytes with ⟨hin, -⟩ | ⟨-, e⟩
  · exact absurd hin h
  · rw [State.storeAnswer, e]
    rfl

theorem unchanged_writeBytes (s : State) (bytes : List Byte) :
    Unchanged (fun p => ∃ k < bytes.length, p = .byte (s.regI.toNat + k)) s
      (s.setMem (s.mem.writeBytes s.regI.toNat bytes)) := by
  intro p hp
  cases p with
  | byte a =>
    refine Memory.read_writeBytes_of_not_mem s.mem bytes fun ⟨hle, hlt⟩ => hp ⟨a - s.regI.toNat, by omega, ?_⟩
    rw [Nat.add_sub_cancel' hle]
  | _ => simp [Part.Same]

/-- A store in range answers the state in which every byte reads as stored. -/
theorem completes_storeAnswer {s : State} {bytes : List Byte} (hwf : s.mem.wf = true) (h : s.regI.toNat + bytes.length ≤ 4096) :
    Completes (fun p => ∃ k < bytes.length, p = .byte (s.regI.toNat + k)) s (s.storeAnswer bytes) fun t =>
      ∀ a, t.readByte a = s.byteAfterStore bytes a :=
  ⟨_, storeAnswer_inRange (.inr h), Memory.read_writeBytes hwf h, unchanged_writeBytes s bytes⟩

theorem takesFault_storeAnswer {s : State} {bytes : List Byte} (h : ¬ s.InRange bytes.length) :
    TakesFault 4#3 (BitVec.ofNat 16 (max s.regI.toNat 4096)) s (s.storeAnswer bytes) := by
  rw [storeAnswer_out_of_range h]
  exact raise_takesFault _ s rfl (faultInfo_memory s.regI)

theorem byteAfterStore_add (s : State) {bytes : List Byte} {k : Nat} (h : k < bytes.length) :
    s.byteAfterStore bytes (s.regI.toNat + k) = bytes.getD k 0#8 := by
  rw [State.byteAfterStore, if_pos (by omega), Nat.add_sub_cancel_left]

@[simp] theorem bcdDigits_length (b : Byte) : (bcdDigits b).length = 3 := rfl

/-- The digits as numbers: each fits in a byte. -/
theorem bcdDigits_toNat (b : Byte) :
    ((bcdDigits b).getD 0 0#8).toNat = b.toNat / 100 ∧ ((bcdDigits b).getD 1 0#8).toNat = b.toNat / 10 % 10 ∧
    ((bcdDigits b).getD 2 0#8).toNat = b.toNat % 10 := by
  have digit {n : Nat} (h : n < 256) : (BitVec.ofNat 8 n).toNat = n := by rw [BitVec.toNat_ofNat, Nat.mod_eq_of_lt h]
  exact ⟨digit (by omega), digit (by omega), digit (by omega)⟩

theorem selects_ldBVx : Selects 0xF0FF#16 0xF033#16 fun w => .ldBVx (fieldX w) := selects_row fun _ => ⟨rfl, rfl, rfl⟩

theorem selects_ldMemVx : Selects 0xF0FF#16 0xF055#16 fun w => .ldMemVx (fieldX w) := selects_row fun _ => ⟨rfl, rfl, rfl⟩

/-- Settles O47: key F with low byte `0x33` selects it, and it stores the three digits at `I`. -/
theorem bcdStoresThreeDigits : Obligations.BcdStoresThreeDigits := by
  refine ⟨selects_ldBVx, fun s x hwf => ⟨fun h => ?_, fun h => ?_⟩⟩
  · have hfits : s.regI.toNat + (bcdDigits (s.getV x)).length ≤ 4096 := h.resolve_left (by decide)
    obtain ⟨hundreds, tens, units⟩ := bcdDigits_toNat (s.getV x)
    obtain ⟨t, ht, hbytes, hframe⟩ := completes_storeAnswer hwf hfits
    have hdigit {k : Nat} (hk : k < 3) : t.readByte (s.regI.toNat + k) = (bcdDigits (s.getV x)).getD k 0#8 := by
      rw [hbytes, byteAfterStore_add s hk]
    refine ⟨t, ht, ⟨?_, ?_, ?_⟩, hframe.mono ?_⟩
    · rw [← hundreds, ← hdigit (by omega), Nat.add_zero]
    · rw [hdigit (by omega), tens]
    · rw [hdigit (by omega), units]
    · rintro p ⟨k, hk, rfl⟩
      rw [bcdDigits_length] at hk
      interval_cases k <;> simp
  · exact takesFault_storeAnswer h

/-- In range, `LD [I],Vx` leaves `V[r]` at `I + r` for each register up to `x`. -/
theorem completes_ldMemVx {s : State} {x : Reg} (hwf : s.mem.wf = true) (h : s.InRange (x.toNat + 1)) :
    Completes (fun p => ∃ k ≤ x.toNat, p = .byte (s.regI.toNat + k)) s (exec (.ldMemVx x) s) fun t =>
      ∀ r : Reg, r.toNat ≤ x.toNat → t.readByte (s.regI.toNat + r.toNat) = s.getV r := by
  have hlen : (s.regBytes 0 (x.toNat + 1)).length = x.toNat + 1 := regBytes_length s 0 _
  have hfits : s.regI.toNat + (s.regBytes 0 (x.toNat + 1)).length ≤ 4096 := by omega
  refine ((completes_storeAnswer hwf hfits).imp fun t ht r hr => ?_).mono ?_
  · rw [ht, byteAfterStore_add s (by omega), regBytes_getD s 0 _ _ (by omega)]
    simp
  · rintro p ⟨k, hk, rfl⟩
    exact ⟨k, by omega, rfl⟩

/-- Settles O48: key F with low byte `0x55` selects it, and it stores the registers up to `x` at `I`. -/
theorem storeRegistersAtI : Obligations.StoreRegistersAtI := by
  refine ⟨selects_ldMemVx, fun s x hwf => ⟨completes_ldMemVx hwf, fun h => takesFault_storeAnswer ?_⟩⟩
  rwa [regBytes_length]

/-! ### The range-checked load of registers -/

theorem exec_ldVxMem {s : State} {x : Reg} (h : s.InRange (x.toNat + 1)) :
    exec (.ldVxMem x) s = .next (State.loadRegs 0 (s.mem.readBytes s.regI.toNat (x.toNat + 1)) s) := by
  rcases loadBytes_cases s s.base (x.toNat + 1) with ⟨-, e⟩ | ⟨hout, -⟩
  · rw [exec, execLdVxMem, e]
    rfl
  · exact absurd h hout

theorem exec_ldVxMem_out_of_range {s : State} {x : Reg} (h : ¬ s.InRange (x.toNat + 1)) :
    exec (.ldVxMem x) s = raise (.memoryOutOfRange (max s.regI.toNat 4096)) s := by
  rcases loadBytes_cases s s.base (x.toNat + 1) with ⟨hin, -⟩ | ⟨-, e⟩
  · exact absurd hin h
  · rw [exec, execLdVxMem, e]
    rfl

/-- Loading the first registers from memory gives each its byte and leaves the later ones alone. -/
theorem getV_loadRegs_readBytes (s : State) (x r : Reg) :
    (State.loadRegs 0 (s.mem.readBytes s.regI.toNat (x.toNat + 1)) s).getV r =
      if r.toNat ≤ x.toNat then s.readByte (s.regI.toNat + r.toNat) else s.getV r := by
  have hlen : (s.mem.readBytes s.regI.toNat (x.toNat + 1)).length = x.toNat + 1 := Memory.readBytes_length _ _ _
  rw [getV_loadRegs s 0 _ (by omega), hlen]
  by_cases hr : r.toNat ≤ x.toNat
  · rw [if_pos (by omega), if_pos hr, Nat.sub_zero, Memory.readBytes_getD _ _ _ _ (by omega)]
    rfl
  · rw [if_neg (by omega), if_neg hr]

theorem unchanged_loadRegs_readBytes (s : State) (x : Reg) :
    Unchanged (fun p => ∃ r : Reg, r.toNat ≤ x.toNat ∧ p = .v r) s
      (State.loadRegs 0 (s.mem.readBytes s.regI.toNat (x.toNat + 1)) s) := by
  intro p hp
  cases p with
  | v r =>
    have hr : ¬ r.toNat ≤ x.toNat := fun h => hp ⟨r, h, rfl⟩
    rw [Part.Same, getV_loadRegs_readBytes, if_neg hr]
  | _ =>
    rw [loadRegs_frame]
    simp [Part.Same]

theorem completes_ldVxMem {s : State} {x : Reg} (h : s.InRange (x.toNat + 1)) :
    Completes (fun p => ∃ r : Reg, r.toNat ≤ x.toNat ∧ p = .v r) s (exec (.ldVxMem x) s) fun t =>
      ∀ r : Reg, r.toNat ≤ x.toNat → t.getV r = s.readByte (s.regI.toNat + r.toNat) :=
  ⟨_, exec_ldVxMem h, fun r hr => (getV_loadRegs_readBytes s x r).trans (if_pos hr), unchanged_loadRegs_readBytes s x⟩

/-- Settles O49: key F with low byte `0x65` selects it, and it loads the registers up to `x` from `I`. -/
theorem loadRegistersFromI : Obligations.LoadRegistersFromI := by
  refine ⟨selects_row fun _ => ⟨rfl, rfl, rfl⟩, fun s x => ⟨completes_ldVxMem, fun h => ?_⟩⟩
  rw [exec_ldVxMem_out_of_range h]
  exact raise_takesFault _ s rfl (faultInfo_memory s.regI)

/-- Settles O57: the store leaves `I` alone, so the load reads the bytes just stored. -/
theorem storeThenLoadRegistersRoundTrip : Obligations.StoreThenLoadRegistersRoundTrip := by
  intro s x v hwf hrange
  obtain ⟨t, ht, hstored, hframe⟩ := completes_ldMemVx hwf hrange
  have hI : t.regI = s.regI := hframe .regI (by simp)
  have hrange' : (t.setRegs v).InRange (x.toNat + 1) := by
    rw [State.InRange, setRegs_regI, hI]
    exact hrange
  obtain ⟨u, hu, hloaded, -⟩ := completes_ldVxMem hrange'
  refine ⟨t, u, ht, hu, fun r hr => ?_⟩
  rw [hloaded r hr, setRegs_readByte, setRegs_regI, hI, hstored r hr]

/-! ### The store and the next fetch -/

/-- A fetched instruction that leaves the bytes at `I` and changes nothing but memory leaves them for the next fetch. -/
theorem State.Fetches.nextFetchSeesStore {s : State} {w : Word} {i : Instr} {bytes : List Byte} (hf : s.Fetches w)
    (hd : decodeWord w = some i)
    (h : Completes (fun p => ∃ a, p = .byte a) s.latchInputs (exec i s.latchInputs) fun t =>
      ∀ a, t.readByte a = s.byteAfterStore bytes a) : NextFetchSeesStore s bytes := by
  obtain ⟨t, he, hbytes, hframe⟩ := h
  obtain ⟨hcode, -, -⟩ := hframe .faultLatch (by simp)
  have hwait : t.waiting = s.waiting := hframe .waiting (by simp)
  have hpc : t.pc = s.pc := hframe .pc (by simp)
  have hnf : t.NoFault := hcode.trans hf.noFault
  have hpc' : t.pc + 2#16 = s.pc + 2#16 := by rw [hpc]
  refine ⟨_, hf.step_eq_finished hd he hnf, ?_⟩
  rw [finished_eq]
  refine ⟨hnf, hpc', hbytes, fun hlow => ?_⟩
  have hnext : (s.pc + 2#16).toNat = s.pc.toNat + 2 := by
    rw [BitVec.toNat_add, BitVec.toNat_ofNat]
    omega
  refine ⟨hnf, hwait.trans hf.running, ?_, ?_, ?_⟩
  · show (t.pc + 2#16).toNat ≤ 4094
    rw [hpc', hnext]
    omega
  · rw [highByte_wordOfBytes]
    show t.readByte (t.pc + 2#16).toNat = _
    rw [hbytes, hpc', hnext]
  · rw [lowByte_wordOfBytes]
    show t.readByte ((t.pc + 2#16).toNat + 1) = _
    rw [hbytes, hpc', hnext]

theorem regBytes_zero_eq_map (s : State) (n : Nat) :
    s.regBytes 0 n = (List.range n).map fun k => s.getV (BitVec.ofNat 4 k) := by
  simp only [regBytes_eq_map, Nat.zero_add]

theorem regBytes_latchInputs (s : State) (k n : Nat) : s.latchInputs.regBytes k n = s.regBytes k n := by
  simp only [regBytes_eq_map, getV_latchInputs]

/-- Settles O59: both instructions complete their store on the latched state, whose registers, `I` and memory are those the cycle
began with. -/
theorem storeIsSeenByTheNextFetch : Obligations.StoreIsSeenByTheNextFetch := by
  intro s w hf hwf
  have store {i : Instr} {bytes : List Byte} (hd : decodeWord w = some i) (he : exec i s.latchInputs = s.latchInputs.storeAnswer bytes)
      (hfits : s.regI.toNat + bytes.length ≤ 4096) : NextFetchSeesStore s bytes := by
    refine hf.nextFetchSeesStore hd ?_
    rw [he]
    exact (completes_storeAnswer (s := s.latchInputs) hwf hfits).mono fun p ⟨k, _, hp⟩ => ⟨_, hp⟩
  refine ⟨fun hw h => ?_, fun hw h => ?_⟩
  · rw [← regBytes_zero_eq_map]
    refine store (selects_ldMemVx w hw) ?_ ?_
    · rw [exec_ldMemVx, regBytes_latchInputs]
    · rw [regBytes_length]
      omega
  · exact store (selects_ldBVx w hw) (exec_ldBVx _ s.latchInputs) (h.resolve_left (by decide))

end Sys2Proof.Machine
end

section
/-! SUPPORT. `DRW Vx,Vy,n` (spec/44_display.md rules R112, R113): the pixels the sprite hits, and the obligations O51 and O58. -/

namespace Sys2Proof.Machine

/-- The display and the collision that `DRW` computes from a state. -/
def State.drawn (s : State) (x y : Reg) (n : Nat) : Display × Bool :=
  drawSprite Config.drawWrap (s.getV x).toNat (s.getV y).toNat (s.mem.readBytes s.regI.toNat n) s.display

theorem exec_drwVxVyN {s : State} {n : Nat} (x y : Reg) (h : s.InRange n) :
    exec (.drwVxVyN x y n) s =
      .next ((s.setV flagReg (flagByte (s.drawn x y n).2)).setDisplay (s.drawn x y n).1) := by
  rcases loadBytes_cases s s.base n with ⟨-, e⟩ | ⟨hout, -⟩
  · rw [exec, execDrwVxVyN, e]
    rfl
  · exact absurd h hout

theorem exec_drwVxVyN_out_of_range {s : State} {n : Nat} (x y : Reg) (h : ¬ s.InRange n) :
    exec (.drwVxVyN x y n) s = raise (.memoryOutOfRange (max s.regI.toNat 4096)) s := by
  rcases loadBytes_cases s s.base n with ⟨hin, -⟩ | ⟨-, e⟩
  · exact absurd hin h
  · rw [exec, execDrwVxVyN, e]
    rfl

/-- The pixels plotted are those that some bit of the sprite that is 1 hits. -/
theorem mem_spritePixels_iff_spriteHits (s : State) (x y : Reg) (n : Nat) (q : Pixel) :
    q ∈ spritePixels .linear (s.getV x).toNat (s.getV y).toNat 0 (s.mem.readBytes s.regI.toNat n) ↔ SpriteHits s x y n q := by
  rw [mem_spritePixels, Memory.readBytes_length]
  refine exists_congr fun row => and_congr_right fun hrow => exists_congr fun col => and_congr_right fun _ => ?_
  rw [Memory.readBytes_getD _ _ _ _ hrow, Fin.ext_iff, pixelIndex_linear, Nat.zero_add, eq_comm (a := q.val)]
  rfl

/-- Drawing flips the pixels hit and no other. -/
theorem pixel_drawn {s : State} {n : Nat} (x y : Reg) (hn : n < 16) (q : Pixel) :
    (SpriteHits s x y n q → Display.pixel (s.drawn x y n).1 q = !s.pixel q) ∧
    (¬ SpriteHits s x y n q → Display.pixel (s.drawn x y n).1 q = s.pixel q) := by
  have hlen : (s.mem.readBytes s.regI.toNat n).length ≤ 31 := by rw [Memory.readBytes_length]; omega
  have hpixel := (drawSprite_linear (s.getV x).toNat (s.getV y).toNat _ s.display hlen).1 q
  rw [← mem_spritePixels_iff_spriteHits]
  refine ⟨fun h => hpixel.trans ?_, fun h => hpixel.trans ?_⟩
  · rw [decide_eq_true h, Bool.xor_true]
    rfl
  · rw [decide_eq_false h, Bool.xor_false]
    rfl

/-- Drawing notes a collision exactly when a pixel hit was on. -/
theorem collision_drawn {s : State} {n : Nat} (x y : Reg) (hn : n < 16) :
    (s.drawn x y n).2 = true ↔ ∃ q, SpriteHits s x y n q ∧ s.pixel q = true := by
  have hlen : (s.mem.readBytes s.regI.toNat n).length ≤ 31 := by rw [Memory.readBytes_length]; omega
  have hcollision := (drawSprite_linear (s.getV x).toNat (s.getV y).toNat _ s.display hlen).2
  simp only [mem_spritePixels_iff_spriteHits] at hcollision
  exact hcollision

theorem unchanged_setV_setDisplay (s : State) (b : Byte) (d : Display) :
    Unchanged (fun p => (∃ q, p = .pixel q) ∨ p = .v flagReg ∨ p = .redrawFlag) s ((s.setV flagReg b).setDisplay d) :=
  (unchanged_setV s flagReg b).trans (unchanged_setDisplay _ d) |>.mono fun p hp => by tauto

theorem completes_drwVxVyN {s : State} {n : Nat} (x y : Reg) (hn : n < 16) (h : s.InRange n) :
    Completes (fun p => (∃ q, p = .pixel q) ∨ p = .v flagReg ∨ p = .redrawFlag) s (exec (.drwVxVyN x y n) s) fun t =>
      (∀ q, SpriteHits s x y n q → t.pixel q = !s.pixel q) ∧ (∀ q, ¬ SpriteHits s x y n q → t.pixel q = s.pixel q) ∧
      ((∃ q, SpriteHits s x y n q ∧ s.pixel q = true) → t.getV flagReg = 1#8) ∧
      ((∀ q, SpriteHits s x y n q → s.pixel q = false) → t.getV flagReg = 0#8) ∧
      t.redrawFlag = true := by
  have hflag : ((s.setV flagReg (flagByte (s.drawn x y n).2)).setDisplay (s.drawn x y n).1).getV flagReg =
      flagByte (s.drawn x y n).2 := by simp
  refine ⟨_, exec_drwVxVyN x y h, ⟨fun q => (pixel_drawn x y hn q).1, fun q => (pixel_drawn x y hn q).2, fun hon => ?_,
    fun hoff => ?_, rfl⟩, unchanged_setV_setDisplay s _ _⟩
  · rw [hflag, (collision_drawn x y hn).mpr hon]
    rfl
  · have hclear : (s.drawn x y n).2 = false := by
      rw [Bool.eq_false_iff, Ne, collision_drawn x y hn]
      rintro ⟨q, hq, hon⟩
      exact Bool.false_ne_true ((hoff q hq).symm.trans hon)
    rw [hflag, hclear]
    rfl

/-- Settles O51: key D selects it, and it plots the sprite's pixels, no two of which coincide. -/
theorem drwFlipsThePixelsUnderTheSprite : Obligations.DrwFlipsThePixelsUnderTheSprite := by
  refine ⟨selects_row fun _ => ⟨rfl, rfl, rfl⟩, fun s x y n hn => ⟨completes_drwVxVyN x y hn, fun h => ?_⟩⟩
  rw [exec_drwVxVyN_out_of_range x y h]
  exact raise_takesFault _ s rfl (faultInfo_memory s.regI)

/-- States with the same coordinates, `I` and memory have the same pixels hit. -/
theorem spriteHits_congr {s t : State} {x y : Reg} (hx : t.getV x = s.getV x) (hy : t.getV y = s.getV y) (hI : t.regI = s.regI)
    (hmem : ∀ a, t.readByte a = s.readByte a) (n : Nat) (q : Pixel) : SpriteHits t x y n q ↔ SpriteHits s x y n q := by
  simp only [SpriteHits, hx, hy, hI, hmem]

/-- Settles O58: the first drawing leaves the coordinates, `I` and memory alone, so the second flips the same pixels back. -/
theorem drawingTwiceRestoresTheDisplay : Obligations.DrawingTwiceRestoresTheDisplay := by
  intro s x y n hx hy hn hrange
  obtain ⟨t, ht, ⟨hflip, hkeep, -⟩, hframe⟩ := completes_drwVxVyN x y hn hrange
  have hI : t.regI = s.regI := hframe .regI (by simp)
  have hhits := spriteHits_congr (hframe (.v x) (by simpa using hx)) (hframe (.v y) (by simpa using hy)) hI
    (fun a => hframe (.byte a) (by simp)) n
  have hrange' : t.InRange n := by
    rw [State.InRange, hI]
    exact hrange
  obtain ⟨u, hu, ⟨hflip', hkeep', -⟩, -⟩ := completes_drwVxVyN x y hn hrange'
  refine ⟨t, u, ht, hu, fun q => ?_⟩
  by_cases hq : SpriteHits s x y n q
  · rw [hflip' q ((hhits q).mpr hq), hflip q hq, Bool.not_not]
  · rw [hkeep' q (mt (hhits q).mp hq), hkeep q hq]

end Sys2Proof.Machine
end

section
/-! SUPPORT. What each instruction may write in its execute phase, said once, and the whole-machine rules that follow: the
obligations O9 and O20 to O24. -/

namespace Sys2Proof.Machine

/-- The parts an instruction may write in its execute phase, the fault entry apart. -/
def Writes (s : State) : Instr → Part → Prop
  | .cls, p => (∃ q, p = .pixel q) ∨ p = .redrawFlag
  | .ret, p => p = .pc ∨ p = .sp
  | .jpAddr _, p => p = .pc
  | .callAddr _, p => p = .pc ∨ p = .sp ∨ (s.sp ≠ 15#4 ∧ p = .slot (s.sp + 1#4))
  | .seVxByte _ _, p => p = .pc
  | .sneVxByte _ _, p => p = .pc
  | .seVxVy _ _, p => p = .pc
  | .ldVxByte x _, p => p = .v x
  | .addVxByte x _, p => p = .v x ∨ p = .v flagReg
  | .ldVxVy x _, p => p = .v x
  | .orVxVy x _, p => p = .v x
  | .andVxVy x _, p => p = .v x
  | .xorVxVy x _, p => p = .v x
  | .addVxVy x _, p => p = .v x ∨ p = .v flagReg
  | .subVxVy x _, p => p = .v x ∨ p = .v flagReg
  | .shrVx x, p => p = .v x ∨ p = .v flagReg
  | .subnVxVy x _, p => p = .v x ∨ p = .v flagReg
  | .shlVx x, p => p = .v x ∨ p = .v flagReg
  | .sneVxVy _ _, p => p = .pc
  | .ldIAddr _, p => p = .regI
  | .jpV0Addr _, p => p = .pc
  | .rndVxByte x _, p => p = .v x
  | .drwVxVyN _ _ _, p => (∃ q, p = .pixel q) ∨ p = .v flagReg ∨ p = .redrawFlag
  | .skpVx _, p => p = .pc
  | .sknpVx _, p => p = .pc
  | .ldVxDt x, p => p = .v x
  | .ldVxK _, p => p = .waiting ∨ p = .waitReg
  | .ldDtVx _, p => p = .dt
  | .ldStVx _, p => p = .st
  | .addIVx _, p => p = .regI
  | .ldFVx _, p => p = .regI
  | .ldBVx _, p => s.regI.toNat + 3 ≤ 4096 ∧ ∃ k < 3, p = .byte (s.regI.toNat + k)
  | .ldMemVx x, p => s.regI.toNat + x.toNat + 1 ≤ 4096 ∧ ∃ k < x.toNat + 1, p = .byte (s.regI.toNat + k)
  | .ldVxMem x, p => ∃ r : Reg, r.toNat ≤ x.toNat ∧ p = .v r

theorem unchanged_takeFault (f : Fault) (s : State) :
    Unchanged (fun p => p = .faultLatch ∨ p = .outputs) s (s.takeFault f) := by
  obtain ⟨t, ht, -, -, -, -, -, hframe⟩ := raise_takesFault f s rfl rfl
  cases ht
  exact hframe

/-- An execute phase takes a fault or writes only the parts its instruction may write. -/
theorem exec_unchanged {i : Instr} {s t : State} (h : exec i s = .next t) :
    (∃ f, t = s.takeFault f) ∨ Unchanged (Writes s i) s t := by
  have fault {f : Fault} (e : exec i s = raise f s) : (∃ f, t = s.takeFault f) ∨ Unchanged (Writes s i) s t := by
    rw [e] at h
    cases h
    exact .inl ⟨f, rfl⟩
  have plain {u : State} (e : exec i s = .next u) (hu : Unchanged (Writes s i) s u) :
      (∃ f, t = s.takeFault f) ∨ Unchanged (Writes s i) s t := by
    rw [e] at h
    cases h
    exact .inr hu
  cases i with
  | cls => exact plain (exec_cls s) (unchanged_setDisplay s _)
  | ret =>
    by_cases h0 : s.sp = 0#4
    · exact fault (exec_ret_underflow h0)
    · obtain ⟨u, e, -, hu⟩ := completes_ret h0
      exact plain e hu
  | callAddr nnn =>
    by_cases h15 : s.sp = 15#4
    · exact fault (exec_callAddr_overflow nnn h15)
    · obtain ⟨u, e, -, hu⟩ := completes_callAddr nnn h15
      exact plain e (hu.mono fun p hp => by simp only [Writes]; tauto)
  | jpAddr | seVxByte | sneVxByte | seVxVy | sneVxVy | jpV0Addr => exact plain rfl (unchanged_setPc s _)
  | ldVxByte x | ldVxVy x | orVxVy x | andVxVy x | xorVxVy x | rndVxByte x | ldVxDt x => exact plain rfl (unchanged_setV s x _)
  | addVxByte x | addVxVy x | subVxVy x | subnVxVy x => exact plain rfl (unchanged_setV_setV s x flagReg _ _)
  | shrVx x | shlVx x => exact plain rfl ((unchanged_setV_setV s flagReg x _ _).mono fun p hp => hp.symm)
  | ldIAddr | addIVx | ldFVx => exact plain rfl (unchanged_setI s _)
  | drwVxVyN x y n =>
    by_cases hr : s.InRange n
    · exact plain (exec_drwVxVyN x y hr) (unchanged_setV_setDisplay s _ _)
    · exact fault (exec_drwVxVyN_out_of_range x y hr)
  | skpVx x =>
    by_cases hx : (s.getV x).toNat ≤ 15
    · exact plain (exec_skpVx hx) (unchanged_setPc s _)
    · exact fault (exec_skpVx_out_of_range (not_le.mp hx))
  | sknpVx x =>
    by_cases hx : (s.getV x).toNat ≤ 15
    · exact plain (exec_sknpVx hx) (unchanged_setPc s _)
    · exact fault (exec_sknpVx_out_of_range (not_le.mp hx))
  | ldVxK x => exact plain rfl (unchanged_setWait s x)
  | ldDtVx => exact plain rfl (unchanged_setDt s _)
  | ldStVx => exact plain rfl (unchanged_setSt s _)
  | ldBVx x =>
    by_cases hr : s.InRange (bcdDigits (s.getV x)).length
    · exact plain (storeAnswer_inRange hr) ((unchanged_writeBytes s _).mono fun p hp => ⟨hr.resolve_left (by simp), hp⟩)
    · exact fault (storeAnswer_out_of_range hr)
  | ldMemVx x =>
    by_cases hr : s.InRange (s.regBytes 0 (x.toNat + 1)).length
    · refine plain (storeAnswer_inRange hr) ((unchanged_writeBytes s _).mono fun p hp => ?_)
      rw [regBytes_length] at hr hp
      exact ⟨hr.resolve_left (by omega), hp⟩
    · exact fault (storeAnswer_out_of_range hr)
  | ldVxMem x =>
    by_cases hr : s.InRange (x.toNat + 1)
    · exact plain (exec_ldVxMem hr) (unchanged_loadRegs_readBytes s x)
    · exact fault (exec_ldVxMem_out_of_range hr)

/-- A part that an execute phase changed, the fault latch and the outputs apart, is one its instruction may write. -/
theorem writes_of_not_same {i : Instr} {s t : State} {p : Part} (h : exec i s = .next t) (hp : ¬ p.Same s t)
    (hlatch : p ≠ .faultLatch := by simp) (hout : p ≠ .outputs := by simp) : Writes s i p := by
  by_contra hw
  rcases exec_unchanged h with ⟨f, rfl⟩ | hframe
  · exact hp (unchanged_takeFault f s p fun hfault => hfault.elim hlatch hout)
  · exact hp (hframe p hw)

/-- Settles O20: of the parts written, pixels and `redraw_flag` are those of `CLS` and `DRW` only. -/
theorem onlyDisplayInstructionsWriteTheDisplay : Obligations.OnlyDisplayInstructionsWriteTheDisplay := by
  intro i s t h hchange
  have hw : (∃ p, Writes s i (.pixel p)) ∨ Writes s i .redrawFlag := by
    rcases hchange with ⟨p, hp⟩ | hr
    · exact .inl ⟨p, writes_of_not_same h hp⟩
    · exact .inr (writes_of_not_same h hr)
  cases i with
  | cls => exact .inl rfl
  | drwVxVyN x y n => exact .inr ⟨x, y, n, rfl⟩
  | _ => simp [Writes] at hw

/-- Settles O21: the bytes written are those of the two stores, at `I` and on, and their range check was passed. -/
theorem onlyStoresWriteMemory : Obligations.OnlyStoresWriteMemory := by
  intro i s t a h hchange
  have hw : Writes s i (.byte a) := writes_of_not_same h hchange
  cases i with
  | ldBVx x =>
    obtain ⟨hfits, k, hk, e⟩ := hw
    cases e
    exact ⟨.inl ⟨x, rfl⟩, by omega, by omega, by omega⟩
  | ldMemVx x =>
    obtain ⟨hfits, k, hk, e⟩ := hw
    cases e
    exact ⟨.inr ⟨x, rfl⟩, by omega, by omega, by omega⟩
  | _ => simp [Writes] at hw

/-- Settles O22: `sp` is written by `CALL` and `RET`, a slot by `CALL` only, and one above a `sp` that is not 15 is not slot 0. -/
theorem onlyCallAndRetTouchTheStack : Obligations.OnlyCallAndRetTouchTheStack := by
  intro i s t h
  refine ⟨fun hchange => ?_, fun k hchange => ?_⟩
  · have hw : Writes s i .sp := writes_of_not_same h hchange
    cases i with
    | ret => exact .inl rfl
    | callAddr nnn => exact .inr ⟨nnn, rfl⟩
    | _ => simp [Writes] at hw
  · have hw : Writes s i (.slot k) := writes_of_not_same h hchange
    cases i with
    | callAddr nnn =>
      simp only [Writes, reduceCtorEq, false_or, Part.slot.injEq] at hw
      obtain ⟨hsp, rfl⟩ := hw
      exact ⟨by bv_omega, nnn, rfl⟩
    | _ => simp [Writes] at hw

theorem writes_regI {s : State} {i : Instr} (h : Writes s i .regI) :
    (∃ nnn, i = .ldIAddr nnn) ∨ (∃ x, i = .addIVx x) ∨ ∃ x, i = .ldFVx x := by
  cases i with
  | ldIAddr nnn => exact .inl ⟨nnn, rfl⟩
  | addIVx x => exact .inr (.inl ⟨x, rfl⟩)
  | ldFVx x => exact .inr (.inr ⟨x, rfl⟩)
  | _ => simp [Writes] at h

theorem writes_dt {s : State} {i : Instr} (h : Writes s i .dt) : ∃ x, i = .ldDtVx x := by
  cases i with
  | ldDtVx x => exact ⟨x, rfl⟩
  | _ => simp [Writes] at h

theorem writes_st {s : State} {i : Instr} (h : Writes s i .st) : ∃ x, i = .ldStVx x := by
  cases i with
  | ldStVx x => exact ⟨x, rfl⟩
  | _ => simp [Writes] at h

theorem writes_wait {s : State} {i : Instr} (h : Writes s i .waiting ∨ Writes s i .waitReg) : ∃ x, i = .ldVxK x := by
  cases i with
  | ldVxK x => exact ⟨x, rfl⟩
  | _ => simp [Writes] at h

/-- Settles O23: each of the four parts is written by the instructions named, by their lists of parts. -/
theorem onlyNamedInstructionsWriteIAndTimersAndWait : Obligations.OnlyNamedInstructionsWriteIAndTimersAndWait := by
  intro i s t h
  refine ⟨fun hI => writes_regI (writes_of_not_same h hI),
    fun hdt => writes_dt (writes_of_not_same h hdt),
    fun hst => writes_st (writes_of_not_same h hst), fun hwait => writes_wait (s := s) ?_⟩
  exact hwait.imp (fun hw => writes_of_not_same h hw) fun hr => writes_of_not_same h hr

/-- Settles O24: besides the flag writers, `VF` is written only as the `x` of an instruction, and by the load of all sixteen
registers. -/
theorem flagRegisterChangedOnlyByFlagInstructions : Obligations.FlagRegisterChangedOnlyByFlagInstructions := by
  intro i s t h hchange
  have hw : Writes s i (.v flagReg) := writes_of_not_same h hchange
  cases i with
  | addVxByte | addVxVy | subVxVy | subnVxVy | shrVx | shlVx | drwVxVyN => simp
  | ldVxByte x | rndVxByte x | ldVxVy x | orVxVy x | andVxVy x | xorVxVy x | ldVxDt x =>
    obtain rfl : flagReg = x := Part.v.inj hw
    simp
  | ldVxMem x =>
    obtain ⟨r, hr, e⟩ := hw
    cases e
    have hx : x = flagReg := by
      have : 15 ≤ x.toNat := hr
      bv_omega
    simp [hx]
  | _ => simp [Writes] at hw

/-! ### The report of a redraw -/

/-- The execute phase of `CLS`, and of `DRW` without a fault, leaves `redraw_flag` set. -/
theorem redrawFlag_of_display {i : Instr} {s t : State} (h : exec i s = .next t) (ht : t.NoFault)
    (hi : i = .cls ∨ ∃ x y n, i = .drwVxVyN x y n) : t.redrawFlag = true := by
  rcases hi with rfl | ⟨x, y, n, rfl⟩
  · rw [exec_cls] at h
    cases h
    rfl
  · by_cases hr : s.InRange n
    · rw [exec_drwVxVyN x y hr] at h
      cases h
      rfl
    · rw [exec_drwVxVyN_out_of_range x y hr] at h
      cases h
      exact absurd ht (takeFault_faulted _ s)

/-- Settles O9: a halted, wait or faulting cycle reports 0 and completes no instruction; a completed one reports the flag its
instruction left, which only `CLS` and `DRW` set. -/
theorem redrawReportedExactlyByDisplayInstructions : Obligations.RedrawReportedExactlyByDisplayInstructions := by
  intro s u hflag h
  by_cases hf : s.NoFault
  · cases hw : s.waiting with
    | true =>
      have hnone : ∀ w, ¬ s.Fetches w := fun w hfetch => Bool.false_ne_true (hfetch.running.symm.trans hw)
      have hquiet : u.redrawNeeded = false := by
        rcases waiting_step_cases hf hw h with ⟨k, -, rfl⟩ | ⟨-, rfl⟩ <;> rw [emitOutputs_eq] <;> exact hflag
      exact iff_of_false (by simp [hquiet]) fun ⟨_, w, hfetch, _⟩ => hnone w hfetch
    | false =>
      rcases running_step_cases hf hw h with ⟨w, i, t, hfetch, hd, he, ht, -, rfl⟩ | ⟨f, rfl⟩
      · rw [finished_redrawNeeded]
        have hdisplay : (decodeWord w = some .cls ∨ ∃ x y n, decodeWord w = some (.drwVxVyN x y n)) ↔
            (i = .cls ∨ ∃ x y n, i = .drwVxVyN x y n) := by simp only [hd, Option.some.injEq]
        by_cases hi : i = .cls ∨ ∃ x y n, i = .drwVxVyN x y n
        · exact iff_of_true (redrawFlag_of_display he ht hi) ⟨ht, w, hfetch, hdisplay.mpr hi⟩
        · have hkept : t.redrawFlag = s.redrawFlag := by
            by_contra hne
            exact hi (onlyDisplayInstructionsWriteTheDisplay i _ t he (.inr hne))
          refine iff_of_false (by simp [hkept, hflag]) fun ⟨_, w', hfetch', hdec⟩ => hi (hdisplay.mp ?_)
          rwa [hfetch.unique hfetch']
      · exact iff_of_false (by simp) fun ⟨hnf, _⟩ => takeFault_faulted f s hnf
  · rw [step_of_halted hf] at h
    cases h
    exact iff_of_false Bool.false_ne_true fun ⟨hnf, _⟩ => hf hnf

end Sys2Proof.Machine
end
